-- ==== Sys2Proof/Word.lean ====
section
/-! DEFINITION. The words of the hardware: bytes of the SPI bus, EEPROM addresses, sequencer codes, and the two forms an
encoded instruction takes (30_encoding.md, R48 and R53). -/

namespace Sys2Proof

/-- One byte on the SPI bus, one sample, one EEPROM cell (R37). -/
abbrev Byte := BitVec 8

/-- A 24-bit EEPROM byte address (R34). -/
abbrev EeAddr := BitVec 24

/-- A value of the state register `seq[4:0]` (R14). -/
abbrev SeqCode := BitVec 5

/-- An encoded instruction. The opcode table holds two separate encodings: SPI command frames (R48) and codes of `seq`
(R53). A value of one is never read as the other. -/
inductive Encoded where
  /-- all bytes the bus master sends between the fall and the rise of chip-select, first byte first (R48) -/
  | frame (bytes : List Byte)
  /-- a code of the sequencer state register (R53) -/
  | code (c : SeqCode)
  deriving DecidableEq, Repr

end Sys2Proof
end

