-- ==== Sys2Proof/Config.lean ====
section
/-! DEFINITION. The implementation parameters (00_scope.md R7), the environment's inputs at one edge (R6), and the free
values: what the spec calls a draw (R10). -/

namespace Sys2Proof

/-- A track descriptor `{start[23:0], length[23:0]}` (R17). -/
structure Track where
  start : EeAddr
  length : BitVec 24
  deriving DecidableEq, Repr, Inhabited

/-- The parameters of 00_scope.md R7. The fixed constants of that table (256, 5, 0x03, 0x00, 24 bits, 8 bits) are in
the rules that use them. -/
structure Params where
  /-- `F_CLK`, in Hz, above 0; only figures in seconds depend on it (R134). That it is a whole number of Hz is a DESIGN CHOICE
  (log entry 2): R7 says only 'Hz, > 0' -/
  fClk : Nat
  /-- `SAMPLE_PERIOD`, in ticks, 1..65535 -/
  samplePeriod : Nat
  /-- `SPI_BYTE_CYCLES`, 1..2^32-1, default 16 (R7, D11) -/
  spiByteCycles : BitVec 32 := 16
  /-- `SETTLE_CYCLES`, 1..2^32-1 -/
  settleCycles : BitVec 32
  /-- `TRACKS[0..4]` -/
  tracks : Vector Track 5
  /-- `STEPS`, 1..65535 -/
  steps : Nat
  /-- `LED_STEP_TIME`, 1..65535 -/
  ledStepTime : Nat
  /-- `EE_SIZE`, in bytes, 1..2^24 -/
  eeSize : Nat
  deriving DecidableEq, Repr

/-- The configuration of `State.reset`: `SPI_BYTE_CYCLES` at its default, `SAMPLE_PERIOD` and `SETTLE_CYCLES` at their nominal
values for this `F_CLK`, `STEPS` and `LED_STEP_TIME` at the document's example (R7). `F_CLK`, the tracks and `EE_SIZE`, which R7
leaves open, are DESIGN CHOICE values (log entry 2), unsafe. -/
def Params.atReset : Params where
  fClk := 4096000
  samplePeriod := 512
  settleCycles := 4096000
  tracks := #v[⟨0x10, 3⟩, ⟨0x20, 2⟩, ⟨0x30, 0⟩, ⟨0x40, 1⟩, ⟨0x50, 2⟩]
  steps := 10
  ledStepTime := 500
  eeSize := 256

/-- The named configuration checks of 00_scope.md R8, and two for the ranges of R7 that none of R8's covers. -/
inductive ConfigCheck where
  | wfSteps
  | wfLst
  | wfPs
  | wfSpi
  | wfSettle
  | wfFit
  | wfOrder
  /-- `F_CLK > 0` (R7); the name is the model's (log entry 2) -/
  | rangeFClk
  /-- `EE_SIZE >= 1` (R7); the name is the model's (log entry 2) -/
  | rangeEeSize
  deriving DecidableEq, Repr

/-- What the outside does on the SPI bus at an edge with `rst = 1`: only then may the programmer drive it (R125).
DESIGN CHOICE (log entry 8): one whole transaction at one edge. -/
structure Held where
  /-- the EEPROM's running program cycle completes at this edge (R61) -/
  progDone : Bool := false
  /-- the bootstrap has finished: the array holds the programmed image (R124 step 1; log entry 28) -/
  imageDone : Bool := false
  /-- the bytes of one transaction of the programmer, command byte first (R48); `none` if it leaves the bus alone -/
  frame : Option (List Byte) := none
  deriving DecidableEq, Repr, Inhabited

/-- The environment's inputs at one edge (R6, R30). `reset = none` is `rst = 0`; a programmer's transaction can only
be written down with `rst = 1`, so a second bus master beside the running block (R125) cannot. -/
structure Inputs where
  /-- the level of `btn`: true = released (1), false = pressed (0) -/
  btn : Bool
  /-- `none`: `rst = 0`; `some h`: `rst = 1`, with the bus activity `h` -/
  reset : Option Held := none
  deriving DecidableEq, Repr, Inhabited

/-- The inputs of an edge that no script gives (R6, K7): free, one for each edge. Log entry 1, safe. -/
opaque Config.freeInputs : Nat → Inputs

/-- A byte `draw` (R10, R45, R46), one for each use. Log entry 7, safe. -/
opaque Config.freeByte : Nat → Byte

/-- `ee_ptr` after a reset edge, a draw (R33, K13), one for each edge. Log entry 4, safe. -/
opaque Config.freePtr : Nat → EeAddr

/-- `TRACKS[i]` for an index beyond 4, which R18 excludes and the table does not have. Log entry 9, safe. -/
opaque Config.freeTrack : BitVec 3 → Track

/-- `spi_sck` when `SPI_BYTE_CYCLES` is not 16 (K10), one for each edge. Log entry 10, safe. -/
opaque Config.freeSck : Nat → Bool

/-- `spi_mosi` when `SPI_BYTE_CYCLES` is not 16 (K10), one for each edge. Log entry 10, safe. -/
opaque Config.freeMosi : Nat → Bool

end Sys2Proof
end

