-- ==== Sys2Proof/Syntax.lean ====
section
/-! DEFINITION. The instructions: one constructor for each row of spec/opcode_table.json, five SPI commands and the 32
codes of `seq`. -/

namespace Sys2Proof

/-- The rows of the opcode table. A state code has no operands (R54); an SPI command carries the operands of its frame. -/
inductive Instr where
  /-- READ: the start address and how many data bytes are clocked out (R59) -/
  | read (start : EeAddr) (count : Nat)
  /-- WREN: no operands (R60) -/
  | wren
  /-- PP: the start address and the data bytes, 1 to 128 of them (R61, R50) -/
  | pp (start : EeAddr) (data : List Byte)
  /-- RDSR: how many status bytes are clocked out, at least one (R62, R50) -/
  | rdsr (count : Nat)
  /-- RDID: always three ID bytes (R63, R50) -/
  | rdid
  /-- code 0x00 (R76) -/
  | idle
  /-- code 0x01 (R77) -/
  | armLoad
  /-- code 0x02 (R78) -/
  | armCmd
  /-- code 0x03 (R79) -/
  | armAddr2
  /-- code 0x04 (R80) -/
  | armAddr1
  /-- code 0x05 (R81) -/
  | armAddr0
  /-- code 0x06 (R82) -/
  | armStart
  /-- code 0x07 (R83) -/
  | sCheck
  /-- code 0x08 (R84) -/
  | sFetch
  /-- code 0x09 (R85) -/
  | sDuty
  /-- code 0x0A (R86) -/
  | sLed
  /-- code 0x0B (R87) -/
  | sWait
  /-- code 0x0C (R88) -/
  | dStop
  /-- code 0x0D (R89) -/
  | dCsoff
  /-- code 0x0E (R90) -/
  | dLedon
  /-- code 0x0F (R91) -/
  | dAdvance
  /-- code 0x10 (R92) -/
  | dSettle
  /-- code 0x11 (R93) -/
  | illegal11
  /-- code 0x12 (R93) -/
  | illegal12
  /-- code 0x13 (R93) -/
  | illegal13
  /-- code 0x14 (R93) -/
  | illegal14
  /-- code 0x15 (R93) -/
  | illegal15
  /-- code 0x16 (R93) -/
  | illegal16
  /-- code 0x17 (R93) -/
  | illegal17
  /-- code 0x18 (R93) -/
  | illegal18
  /-- code 0x19 (R93) -/
  | illegal19
  /-- code 0x1A (R93) -/
  | illegal1A
  /-- code 0x1B (R93) -/
  | illegal1B
  /-- code 0x1C (R93) -/
  | illegal1C
  /-- code 0x1D (R93) -/
  | illegal1D
  /-- code 0x1E (R93) -/
  | illegal1E
  /-- code 0x1F (R93) -/
  | illegal1F
  deriving DecidableEq, Repr

end Sys2Proof
end

