-- ==== Sys2Proof/WellFormed.lean ====
section
/-! DEFINITION. Which instructions are well formed: the frame lengths of 30_encoding.md R50. The well-formedness of a
configuration (R8) is in Machine/Admission.lean. -/

namespace Sys2Proof

/-- The checks an SPI frame's operands can fail (R50). -/
inductive IllFormed where
  /-- a page program with no data byte -/
  | pageProgramEmpty
  /-- a page program with more than 128 data bytes -/
  | pageProgramTooLong
  /-- a status read that reads no status byte -/
  | statusReadEmpty
  deriving DecidableEq, Repr

/-- The first check an instruction fails, none if it is well formed. -/
def Instr.failing : Instr → Option IllFormed
  | .pp _ data =>
      if data.length = 0 then some .pageProgramEmpty
      else if 128 < data.length then some .pageProgramTooLong
      else none
  | .rdsr count => if count = 0 then some .statusReadEmpty else none
  | _ => none

/-- An instruction is well formed when it fails no check. -/
def Instr.wf (i : Instr) : Bool := decide (i.failing = none)

end Sys2Proof
end

