-- ==== Sys2Proof/Decode.lean ====
section
/-! DEFINITION. Decoding: from an encoded word to an instruction, total, refusing by name; then the encoder, written from
the same tables (30_encoding.md R48 to R54). -/

namespace Sys2Proof

/-- Why a frame is no instruction of the table. -/
inductive DecodeError where
  /-- chip-select fell and rose with no byte between -/
  | emptyFrame
  /-- a command byte other than the five (R51) -/
  | unknownCommand (c : Byte)
  /-- one of the commands READ, WREN, RDSR, RDID, with a number of bytes R50 does not give it -/
  | badLength (c : Byte)
  /-- a page program without three address bytes and 1..128 data bytes (R50) -/
  | badPageProgram
  deriving DecidableEq, Repr

/-- The SPI command bytes (R49). -/
abbrev Cmd.read : Byte := 0x03#8
abbrev Cmd.wren : Byte := 0x06#8
abbrev Cmd.pp : Byte := 0x02#8
abbrev Cmd.rdsr : Byte := 0x05#8
abbrev Cmd.rdid : Byte := 0x9F#8

/-- `DUMMY_TX`, the byte sent while data is read (R7, D12). -/
abbrev dummyTx : Byte := 0x00#8

/-- The codes of `seq` that rules refer to by name (R53). -/
abbrev Code.idle : SeqCode := 0x00#5
abbrev Code.armLoad : SeqCode := 0x01#5
abbrev Code.armCmd : SeqCode := 0x02#5
abbrev Code.armAddr2 : SeqCode := 0x03#5
abbrev Code.armAddr1 : SeqCode := 0x04#5
abbrev Code.armAddr0 : SeqCode := 0x05#5
abbrev Code.armStart : SeqCode := 0x06#5
abbrev Code.sCheck : SeqCode := 0x07#5
abbrev Code.sFetch : SeqCode := 0x08#5
abbrev Code.sDuty : SeqCode := 0x09#5
abbrev Code.sLed : SeqCode := 0x0A#5
abbrev Code.sWait : SeqCode := 0x0B#5
abbrev Code.dStop : SeqCode := 0x0C#5
abbrev Code.dCsoff : SeqCode := 0x0D#5
abbrev Code.dLedon : SeqCode := 0x0E#5
abbrev Code.dAdvance : SeqCode := 0x0F#5
abbrev Code.dSettle : SeqCode := 0x10#5

/-- The three address bytes of a frame, most significant first (R35, R54). -/
def addrBytes (a : EeAddr) : List Byte :=
  [a.extractLsb' 16 8, a.extractLsb' 8 8, a.extractLsb' 0 8]

/-- `{tx2, tx1, tx0}`: the address the EEPROM reassembles (R46, R54). -/
def joinAddr (b2 b1 b0 : Byte) : EeAddr := b2 ++ b1 ++ b0

/-- The codes 0x00..0x10 in order (R53). -/
def seqStates : List Instr :=
  [.idle, .armLoad, .armCmd, .armAddr2, .armAddr1, .armAddr0, .armStart, .sCheck, .sFetch] ++
  [.sDuty, .sLed, .sWait, .dStop, .dCsoff, .dLedon, .dAdvance, .dSettle]

/-- The codes 0x11..0x1F in order (R53, R93). -/
def seqIllegal : List Instr :=
  [.illegal11, .illegal12, .illegal13, .illegal14, .illegal15, .illegal16, .illegal17, .illegal18] ++
  [.illegal19, .illegal1A, .illegal1B, .illegal1C, .illegal1D, .illegal1E, .illegal1F]

/-- The instruction of a state code: every one of the 32 codes has one (R53). -/
def decodeSeq (c : SeqCode) : Instr := (seqStates ++ seqIllegal).getD c.toNat .illegal1F

/-- The instruction of an SPI frame (R48 to R50). The command byte decides the form; what the master sends while the
device answers is not looked at (R46). -/
def decodeFrame : List Byte → Except DecodeError Instr
  | [] => .error .emptyFrame
  | c :: rest =>
    if c = Cmd.read then
      match rest with
      | a2 :: a1 :: a0 :: data => .ok (.read (joinAddr a2 a1 a0) data.length)
      | _ => .error (.badLength c)
    else if c = Cmd.wren then
      match rest with
      | [] => .ok .wren
      | _ => .error (.badLength c)
    else if c = Cmd.pp then
      match rest with
      | a2 :: a1 :: a0 :: data =>
          if (Instr.pp (joinAddr a2 a1 a0) data).wf then .ok (.pp (joinAddr a2 a1 a0) data)
          else .error .badPageProgram
      | _ => .error .badPageProgram
    else if c = Cmd.rdsr then
      if rest.length = 0 then .error (.badLength c) else .ok (.rdsr rest.length)
    else if c = Cmd.rdid then
      if rest.length = 3 then .ok .rdid else .error (.badLength c)
    else .error (.unknownCommand c)

/-- Decode either form. -/
def decode : Encoded → Except DecodeError Instr
  | .frame bytes => decodeFrame bytes
  | .code c => .ok (decodeSeq c)

/-- The encoding of an instruction: the frame of an SPI command (R49, R59 to R63) or the code of a state (R53). -/
def encode : Instr → Encoded
  | .read a n => .frame (Cmd.read :: (addrBytes a ++ List.replicate n dummyTx))
  | .wren => .frame [Cmd.wren]
  | .pp a data => .frame (Cmd.pp :: (addrBytes a ++ data))
  | .rdsr n => .frame (Cmd.rdsr :: List.replicate n dummyTx)
  | .rdid => .frame [Cmd.rdid, dummyTx, dummyTx, dummyTx]
  | .idle => .code 0x00#5
  | .armLoad => .code 0x01#5
  | .armCmd => .code 0x02#5
  | .armAddr2 => .code 0x03#5
  | .armAddr1 => .code 0x04#5
  | .armAddr0 => .code 0x05#5
  | .armStart => .code 0x06#5
  | .sCheck => .code 0x07#5
  | .sFetch => .code 0x08#5
  | .sDuty => .code 0x09#5
  | .sLed => .code 0x0A#5
  | .sWait => .code 0x0B#5
  | .dStop => .code 0x0C#5
  | .dCsoff => .code 0x0D#5
  | .dLedon => .code 0x0E#5
  | .dAdvance => .code 0x0F#5
  | .dSettle => .code 0x10#5
  | .illegal11 => .code 0x11#5
  | .illegal12 => .code 0x12#5
  | .illegal13 => .code 0x13#5
  | .illegal14 => .code 0x14#5
  | .illegal15 => .code 0x15#5
  | .illegal16 => .code 0x16#5
  | .illegal17 => .code 0x17#5
  | .illegal18 => .code 0x18#5
  | .illegal19 => .code 0x19#5
  | .illegal1A => .code 0x1A#5
  | .illegal1B => .code 0x1B#5
  | .illegal1C => .code 0x1C#5
  | .illegal1D => .code 0x1D#5
  | .illegal1E => .code 0x1E#5
  | .illegal1F => .code 0x1F#5

/-- The bytes an SPI frame sends; none for a state code. -/
def frameBytes (i : Instr) : List Byte :=
  match encode i with
  | .frame bytes => bytes
  | .code _ => []

/-- The shortest frame of a command (R50): the bytes a table word is padded to with zeros. -/
def shortestFrame (c : Byte) : Nat :=
  if c = Cmd.read then 4
  else if c = Cmd.pp then 5
  else if c = Cmd.rdsr then 2
  else if c = Cmd.rdid then 4
  else 1

/-- The first `n` bytes of `w`, least significant first. -/
def bytesOfNat : Nat → Nat → List Byte
  | 0, _ => []
  | n + 1, w => BitVec.ofNat 8 w :: bytesOfNat n (w / 256)

/-- The encoded word that stands for `nbits` bits of a row of spec/opcode_table.json. The table holds two encodings that
share values; a word of at most one byte that is a code of `seq` (below 32) is read as that code, any other word as an SPI
frame, first byte lowest, with zero bytes up to the command's shortest frame (log entry 11). -/
def tableWord (nbits w : Nat) : Encoded :=
  if nbits ≤ 8 ∧ w < 32 then .code (BitVec.ofNat 5 w)
  else
    let bytes := bytesOfNat ((nbits + 7) / 8) w
    .frame (bytes ++ List.replicate (shortestFrame (bytes.headD 0) - bytes.length) 0)

/-- What the decoder reads from a word numbered as spec/opcode_table.json numbers it. -/
def decodeTableWord (nbits w : Nat) : Option Instr :=
  match decode (tableWord nbits w) with
  | .ok i => some i
  | .error _ => none

end Sys2Proof
end

