-- ==== Sys2Proof/Machine/State.lean ====
section
/-! DEFINITION. The state of the machine (10_state.md), its values after reset (R33), and the reasons a step can stop. -/

namespace Sys2Proof.Machine

/-- The direction of the LED ramp: `led_dir`, 0 = rising, 1 = falling (R26). -/
inductive LedDir where
  | rising
  | falling
  deriving DecidableEq, Repr

/-- The EEPROM's transaction mode `ee_mode` (R31). -/
inductive EeMode where
  /-- chip-select high: the device ignores the bus (R44) -/
  | off
  /-- the next byte is a command -/
  | cmd
  /-- the next byte is address byte `k` -/
  | addr (k : Fin 3)
  /-- a READ streams data -/
  | data
  /-- a command other than READ (R46) -/
  | other
  deriving DecidableEq, Repr

/-- EEPROM contents: address and byte, addresses strictly rising, no entry equal to what an unlisted address reads as
(Machine/Memory.lean). -/
abbrev Memory := List Host.Cell

/-- The external EEPROM (R31, R44 to R47, R60 to R62). -/
structure Eeprom where
  /-- `EE[]` -/
  mem : Memory
  /-- `ee_ptr` -/
  ptr : EeAddr
  /-- `ee_mode` -/
  mode : EeMode
  /-- `abuf[0]` (R46) -/
  abuf0 : Byte
  /-- `abuf[1]` (R46) -/
  abuf1 : Byte
  /-- `abuf[2]` (R46) -/
  abuf2 : Byte
  /-- a write-enable was received and no page program has used it (R60) -/
  writeEnabled : Bool
  /-- the bytes of the running program cycle, in order, written when it completes; empty: no cycle runs, WIP = 0 (R61, R62) -/
  program : List Host.Cell
  deriving DecidableEq, Repr

/-- Everything the spec gives the machine, and at the end the model's own four fields. -/
structure State where
  /-- the configuration (R7), constant while the block runs (R127) -/
  cfg : Params
  /-- `seq` (R14) -/
  seq : SeqCode
  /-- `wcnt` (R15) -/
  wcnt : BitVec 32
  /-- `track_idx` (R18) -/
  trackIdx : BitVec 3
  /-- `addr` (R19) -/
  addr : EeAddr
  /-- `rem` (R20) -/
  rem : BitVec 24
  /-- `sample` (R21) -/
  sample : Byte
  /-- `cmp_buf` (R22) -/
  cmpBuf : Byte
  /-- `cmp_act` (R22) -/
  cmpAct : Byte
  /-- `cnt_p` (R23) -/
  cntP : BitVec 8
  /-- `per_p` (R23) -/
  perP : BitVec 9
  /-- `cnt_s` (R24) -/
  cntS : BitVec 16
  /-- `per_s` (R24) -/
  perS : BitVec 16
  /-- `ovf` (R25) -/
  ovf : Bool
  /-- `led_step` (R26) -/
  ledStep : BitVec 16
  /-- `led_dir` (R26) -/
  ledDir : LedDir
  /-- `led_tick` (R26) -/
  ledTick : BitVec 16
  /-- `led_out` (R26): true = on -/
  ledOut : Bool
  /-- `cs_n` (R27): false = asserted -/
  csN : Bool
  /-- `trig_q` (R28) -/
  trigQ : Bool
  /-- `trig_pend` (R28) -/
  trigPend : Bool
  /-- `fault_late` (R29) -/
  faultLate : Bool
  /-- `fault_ovr` (R29) -/
  faultOvr : Bool
  /-- the external EEPROM (R31) -/
  ee : Eeprom
  /-- the bootstrap has finished, so `EE[]` is the programmed image (R124 step 1, K8; log entry 28) -/
  imageProgrammed : Bool
  /-- the MODEL's: the bytes the device returned in the programmer's last transaction (log entry 8) -/
  busRx : List Byte
  /-- the MODEL's: the inputs of the coming edges, next first; where it is empty they are free (log entry 1) -/
  stim : List Inputs
  /-- the MODEL's: edges so far, the index of the free inputs (log entry 1) -/
  edge : Nat
  /-- the MODEL's: byte draws so far, the index of the free bytes (log entry 7) -/
  draws : Nat
  deriving DecidableEq, Repr

/-- Reasons the machine stops with a fault: there are none. The block raises no exception and has no trap mechanism (R104);
LATE and OVR are bits of State that stop nothing (log entry 24). -/
inductive Fault where
  deriving DecidableEq, Repr

/-- Reasons a step is refused. -/
inductive Refusal where
  /-- An instruction without a meaning. No arm of `exec` answers it. Safe. -/
  | notModelled (mnemonic : String)
  /-- Raised by `step` on a configuration that fails a check, by the check's name (R8, K20), or a range of R7 (log entry 2).
  Safe. -/
  | badConfig (check : ConfigCheck)
  /-- Raised by `step` when `rst = 0` while a program cycle still runs (R126, K19; log entry 18). Safe. -/
  | deviceBusy
  /-- Raised by `step` when `rst = 0` and the image was never programmed (R124, K8; log entry 28). Safe. -/
  | unprogrammedImage
  deriving DecidableEq, Repr

/-- The EEPROM of `State.reset`: mode OFF (R33), idle (R126). No byte is listed (log entry 3); the pointer, the address
buffer and the write enable are DESIGN CHOICE values (log entries 4, 5, 6). -/
def Eeprom.atReset : Eeprom where
  mem := []
  ptr := 0
  mode := .off
  abuf0 := 0
  abuf1 := 0
  abuf2 := 0
  writeEnabled := false
  program := []

/-- The machine right after reset (R33, R122). The configuration is log entry 2. No image is loaded yet, so
none counts as programmed (log entry 28). -/
def State.reset : State where
  cfg := Params.atReset
  seq := 0x00
  wcnt := 0
  trackIdx := 0
  addr := 0
  rem := 0
  sample := 0
  cmpBuf := 0
  cmpAct := 0
  cntP := 0
  perP := 0
  cntS := 0
  perS := 0
  ovf := false
  ledStep := 0
  ledDir := .rising
  ledTick := 0
  ledOut := false
  csN := true
  trigQ := false
  trigPend := false
  faultLate := false
  faultOvr := false
  ee := Eeprom.atReset
  imageProgrammed := false
  busRx := []
  stim := []
  edge := 0
  draws := 0

/-- What a step is about to do (`fetch` in Machine/Fetch.lean). -/
inductive Fetched where
  /-- run one instruction -/
  | instr (i : Instr)
  /-- `rst = 1` and the bus is idle: only the reset edge (R121) -/
  | resetOnly
  /-- `rst = 1` and a transaction that is no row of the table: the device takes it byte by byte (R46, R51) -/
  | raw (bytes : List Byte)
  /-- the run is refused (K8, K19, K20) -/
  | refuse (r : Refusal)
  deriving DecidableEq, Repr

end Sys2Proof.Machine
end

