-- ==== Sys2Proof/Machine/Operands.lean ====
section
/-! DEFINITION. Where operands come from: the environment's inputs, the track table, the address bytes (R54). -/

namespace Sys2Proof.Machine

/-- The inputs sampled at the next edge: the script's, else free (R6). -/
def State.inputs (s : State) : Inputs := s.stim.headD (Config.freeInputs s.edge)

/-- The level of `btn` at the next edge (R30). -/
def State.btn (s : State) : Bool := s.inputs.btn

/-- The level of `rst` at the next edge (R30, R121). -/
def State.rst (s : State) : Bool := s.inputs.reset.isSome

/-- `TRACKS[i]` (R17). An index beyond 4 names no entry: a free track (log entry 9). -/
def trackEntry (p : Params) (i : BitVec 3) : Track :=
  if h : i.toNat < 5 then p.tracks[i.toNat] else Config.freeTrack i

/-- `TRACKS[track_idx]` (R77, R82). -/
def State.track (s : State) : Track := trackEntry s.cfg s.trackIdx

/-- `addr[23:16]` (R79). -/
def State.tx2 (s : State) : Byte := s.addr.extractLsb' 16 8

/-- `addr[15:8]` (R80). -/
def State.tx1 (s : State) : Byte := s.addr.extractLsb' 8 8

/-- `addr[7:0]` (R81). -/
def State.tx0 (s : State) : Byte := s.addr.extractLsb' 0 8

/-- The device is busy: WIP = 1 (R61, R62). -/
def Eeprom.busy (e : Eeprom) : Bool := !e.program.isEmpty

/-- `(track_idx + 1) mod 5` (R91). -/
def nextTrack (i : BitVec 3) : BitVec 3 := BitVec.ofNat 3 ((i.toNat + 1) % 5)

end Sys2Proof.Machine
end

