-- ==== Sys2Proof/Machine/Flags.lean ====
section
/-! DEFINITION. Every flag and counter computation of an edge, from pre-edge values (R10): the counters (R64, R65), the
overflow event and flag (R66, R67), the compare latch (R68), the diagnostic bits (R105, R106), the trigger detector
(R108). A `q` is the pre-edge state code. -/

namespace Sys2Proof.Machine

/-- `carrier_wrap` (R64). -/
def carrierWrap (s : State) : Bool := decide (s.perP ≠ 0 ∧ s.cntP.toNat = s.perP.toNat - 1)

/-- `cnt_p` after the edge (R64). -/
def nextCntP (s : State) : BitVec 8 :=
  if s.perP ≠ 0 then BitVec.ofNat 8 ((s.cntP.toNat + 1) % s.perP.toNat) else s.cntP

/-- `cnt_s` after the edge (R65). -/
def nextCntS (s : State) : BitVec 16 :=
  if s.perS ≠ 0 then BitVec.ofNat 16 ((s.cntS.toNat + 1) % s.perS.toNat) else s.cntS

/-- `ovf_event` (R66). -/
def ovfEvent (s : State) : Bool := decide (s.perS ≠ 0 ∧ s.cntS.toNat = s.perS.toNat - 1)

/-- `clr`: S_WAIT consumes the tick at this edge (R67, R87). -/
def ovfClear (q : SeqCode) (s : State) : Bool := decide (q = Code.sWait) && s.ovf

/-- `ovf` after the edge: a set wins over a clear (R67). -/
def nextOvf (q : SeqCode) (s : State) : Bool :=
  if ovfEvent s then true else if ovfClear q s then false else s.ovf

/-- `cmp_act` after the edge: loaded at a carrier wrap, with the pre-edge `cmp_buf` (R68). -/
def nextCmpAct (s : State) : Byte := if carrierWrap s then s.cmpBuf else s.cmpAct

/-- The edge raises LATE (R105). -/
def lateEvent (q : SeqCode) (s : State) : Bool :=
  ovfEvent s && (decide (q = Code.sFetch) || (decide (q = Code.sCheck) && decide (s.rem ≠ 0)))

/-- The edge raises OVR (R106). The states S_CHECK..S_WAIT are the codes 0x07..0x0B. -/
def ovrEvent (q : SeqCode) (s : State) : Bool :=
  ovfEvent s && s.ovf && !ovfClear q s && decide (Code.sCheck ≤ q ∧ q ≤ Code.sWait)

/-- `trig_pend` after the edge: a falling edge of `btn` (R108). -/
def nextTrigPend (s : State) : Bool := s.trigQ && !s.btn

end Sys2Proof.Machine
end

