-- ==== Sys2Proof/Machine/Memory.lean ====
section
/-! DEFINITION. The EEPROM array as a list of cells in one canonical form. -/

namespace Sys2Proof.Machine

/-- What an unlisted address of the array holds. PRESUMED (log entry 3), unsafe: the erased byte of serial EEPROMs. -/
def Memory.erased : Byte := 0xFF#8

/-- The byte at an address of the array. -/
def Memory.read : Memory → Nat → Byte
  | [], _ => Memory.erased
  | (a', b') :: rest, a => if a = a' then b' else Memory.read rest a

/-- A list with the byte at `a` in front, or without it when it is what an unlisted address holds. -/
def Memory.put (a : Nat) (b : Byte) (rest : Memory) : Memory :=
  if b = Memory.erased then rest else (a, b) :: rest

/-- `MemWrite(a, 1, b)` (R10), keeping the canonical form. -/
def Memory.write : Memory → Nat → Byte → Memory
  | [], a, b => Memory.put a b []
  | (a', b') :: rest, a, b =>
    if a < a' then Memory.put a b ((a', b') :: rest)
    else if a = a' then Memory.put a b rest
    else (a', b') :: Memory.write rest a b

/-- Write a list of cells, first one first. -/
def Memory.writeAll : Memory → List Host.Cell → Memory
  | m, [] => m
  | m, (a, b) :: rest => Memory.writeAll (Memory.write m a b) rest

/-- Every address of the list lies above `a`. -/
def Memory.above (a : Nat) (m : Memory) : Bool := m.all fun c => decide (a < c.1)

/-- The canonical form: addresses strictly rising, no entry equal to what an unlisted address holds. -/
def Memory.wf : Memory → Bool
  | [] => true
  | (a, b) :: rest => decide (b ≠ Memory.erased) && Memory.above a rest && Memory.wf rest

end Sys2Proof.Machine
end

