-- ==== Sys2Proof/Machine/Ops.lean ====
section
/-! DEFINITION. The named operations of the machine: what happens at every edge, the reset edge, chip-select and the byte
exchange with the EEPROM, the counters' start and stop, the LED ramp, the wake from IDLE and the return to it. -/

namespace Sys2Proof.Machine

/-- The part of an edge with `rst = 0` that does not depend on the state rule but for its code `q`: counters, overflow
flag, compare latch, trigger detector and diagnostic bits, all from pre-edge values (R64 to R68, R105, R106, R108). The
state rule writes over the result (R11, R74). The inputs of the edge are used up. `q` is an argument: log entry 21. -/
def clockEdge (q : SeqCode) (s : State) : State :=
  { s with
    cntP := nextCntP s
    cntS := nextCntS s
    ovf := nextOvf q s
    cmpAct := nextCmpAct s
    trigPend := nextTrigPend s
    trigQ := s.btn
    faultLate := s.faultLate || lateEvent q s
    faultOvr := s.faultOvr || ovrEvent q s
    stim := s.stim.tail
    edge := s.edge + 1 }

/-- A `draw` (R10): a fresh free byte. -/
def drawByte (s : State) : Byte × State :=
  (Config.freeByte s.draws, { s with draws := s.draws + 1 })

/-- `MemRead(a, 1)` (R45): a draw beyond the array, and while a program cycle runs (R126; log entry 15). -/
def memRead (a : EeAddr) (s : State) : Byte × State :=
  if s.ee.busy = true ∨ s.cfg.eeSize ≤ a.toNat then drawByte s
  else (Memory.read s.ee.mem a.toNat, s)

/-- Chip-select falls: a new transaction (R44). -/
def csFall (s : State) : State := { s with ee := { s.ee with mode := .cmd } }

/-- Chip-select rises: the transaction ends (R44). -/
def csRise (s : State) : State := { s with ee := { s.ee with mode := .off } }

/-- Write `cs_n`; the EEPROM sees its edges (R27, R44). -/
def setCs (level : Bool) (s : State) : State :=
  let t := { s with csN := level }
  if s.csN = true ∧ level = false then csFall t
  else if s.csN = false ∧ level = true then csRise t
  else t

/-- The EEPROM acts on one byte by its mode and returns one (R46). In OFF it ignores the bus (R44), and what is on the
return line is a draw. -/
def eeByte (tx : Byte) (s : State) : Byte × State :=
  match s.ee.mode with
  | .off => drawByte s
  | .cmd =>
      let d := drawByte s
      (d.1, { d.2 with ee := { s.ee with mode := if tx = Cmd.read then .addr 0 else .other } })
  | .addr 0 =>
      let d := drawByte s
      (d.1, { d.2 with ee := { s.ee with abuf0 := tx, mode := .addr 1 } })
  | .addr 1 =>
      let d := drawByte s
      (d.1, { d.2 with ee := { s.ee with abuf1 := tx, mode := .addr 2 } })
  | .addr 2 =>
      let d := drawByte s
      (d.1, { d.2 with ee := { s.ee with
        abuf2 := tx, ptr := joinAddr s.ee.abuf0 s.ee.abuf1 tx, mode := .data } })
  | .data =>
      let r := memRead s.ee.ptr s
      (r.1, { r.2 with ee := { s.ee with ptr := s.ee.ptr + 1 } })
  | .other => drawByte s

/-- `SpiXfer(tx)` of the engine at its last cycle (R46, R56): the EEPROM acts on the byte while `cs_n = 0`. With `cs_n = 1`
it does not, and the returned byte is a draw (log entry 25). -/
def spiXfer (tx : Byte) (s : State) : Byte × State :=
  if s.csN = true then drawByte s else eeByte tx s

/-- A state of cost `cost` (R75): stay and count, or at the last edge clear `wcnt` and do the completion effects. -/
def multiCycle (cost : BitVec 32) (q : SeqCode) (complete : State → State) (s : State) : State :=
  if s.wcnt.toNat < cost.toNat - 1 then { clockEdge q s with wcnt := s.wcnt + 1 }
  else complete { clockEdge q s with wcnt := 0 }

/-- A state that sends one byte and discards the answer (R78 to R81). -/
def sendByte (q : SeqCode) (tx : Byte) (next : SeqCode) (s : State) : State :=
  multiCycle s.cfg.spiByteCycles q (fun t => { (spiXfer tx t).2 with seq := next }) s

/-- `CounterStart` (R70): its writes override the counter rules of the same edge (R11). `s` is the state before the edge. -/
def counterStart (s t : State) : State :=
  { t with
    cntP := 0
    perP := 256
    cntS := 0
    perS := BitVec.ofNat 16 s.cfg.samplePeriod
    ovf := false
    cmpAct := s.cmpBuf }

/-- `CounterStop` (R71). -/
def counterStop (t : State) : State := { t with perP := 0, perS := 0 }

/-- `LedRampStep` (R98). The comparisons are exact; the results fit 16 bits under I6 and I7 (log entry 20). -/
def ledRampStep (t : State) : State :=
  if t.ledTick.toNat + 1 = t.cfg.ledStepTime then
    match t.ledDir with
    | .rising =>
        { t with
          ledTick := 0
          ledStep := t.ledStep + 1
          ledDir := if t.ledStep.toNat + 1 = t.cfg.steps then .falling else .rising }
    | .falling =>
        { t with
          ledTick := 0
          ledStep := t.ledStep - 1
          ledDir := if t.ledStep - 1 = 0 then .rising else .falling }
  else { t with ledTick := t.ledTick + 1 }

/-- `LedOutput` (R99), run on the state `ledRampStep` gives: it reads the step written at this same edge. -/
def ledOutput (t : State) : State :=
  { t with ledOut := decide (t.rem.toNat % t.cfg.steps < t.ledStep.toNat) }

/-- Taking the trigger (R109, R113): the one interrupt-like entry. Nothing is saved, no mask or mode changes; control goes
to the fixed state ARM_LOAD. -/
def takeWake (t : State) : State := { t with seq := Code.armLoad }

/-- The way back to deep sleep (R92, R93, R114): there is no saved state to restore. -/
def returnToIdle (t : State) : State := { t with seq := Code.idle }

/-- The EEPROM at an edge with `rst = 1`, any such edge, also one long after a first release (DESIGN CHOICE, log entry 27): a
program cycle that completes here has written those of its bytes that lie in the array of `size` bytes (R61; log entries 12,
17); chip-select is high, so the mode is OFF (R33, R123); the pointer is a draw (R33, K13). -/
def Eeprom.atResetEdge (size : Nat) (h : Held) (ptr : EeAddr) (e : Eeprom) : Eeprom :=
  { e with
    mem := if h.progDone then Memory.writeAll e.mem (e.program.filter fun c => decide (c.1 < size)) else e.mem
    program := if h.progDone then [] else e.program
    ptr := ptr
    mode := .off }

/-- What the outside does on the bus at the next edge, if `rst = 1` there. -/
def State.held (s : State) : Held := s.inputs.reset.getD {}

/-- The reset edge (R121): every register of the block takes its value of R33, whatever it was; the configuration and
the EEPROM's contents are not the block's. DEDUCED, log entry 19. The bootstrap may finish at this edge, and what it has
finished stays finished (R124; log entry 28). -/
def resetEdge (s : State) : State :=
  { State.reset with
    cfg := s.cfg
    ee := Eeprom.atResetEdge s.cfg.eeSize s.held (Config.freePtr s.edge) s.ee
    imageProgrammed := s.imageProgrammed || s.held.imageDone
    busRx := s.busRx
    stim := s.stim.tail
    edge := s.edge + 1
    draws := s.draws }

end Sys2Proof.Machine
end

