-- ==== Sys2Proof/Machine/Armed.lean ====
section
/-! DEFINITION. The state rules of the phases IDLE and ARMED (42_playback_sequencer.md R76 to R82). -/

namespace Sys2Proof.Machine

/-- IDLE (R76): deep sleep until a pending trigger is seen. -/
def execIdle (s : State) : Host.Outcome State Fault Refusal :=
  .next (if s.trigPend then takeWake (clockEdge Code.idle s) else returnToIdle (clockEdge Code.idle s))

/-- ARM_LOAD (R77): load the descriptor's start, open the transaction. -/
def execArmLoad (s : State) : Host.Outcome State Fault Refusal :=
  .next { setCs false (clockEdge Code.armLoad s) with
    addr := s.track.start
    wcnt := 0
    seq := Code.armCmd }

/-- ARM_CMD (R78): send the READ command byte. -/
def execArmCmd (s : State) : Host.Outcome State Fault Refusal :=
  .next (sendByte Code.armCmd Cmd.read Code.armAddr2 s)

/-- ARM_ADDR2 (R79): send `addr[23:16]`. -/
def execArmAddr2 (s : State) : Host.Outcome State Fault Refusal :=
  .next (sendByte Code.armAddr2 s.tx2 Code.armAddr1 s)

/-- ARM_ADDR1 (R80): send `addr[15:8]`. -/
def execArmAddr1 (s : State) : Host.Outcome State Fault Refusal :=
  .next (sendByte Code.armAddr1 s.tx1 Code.armAddr0 s)

/-- ARM_ADDR0 (R81): send `addr[7:0]`. -/
def execArmAddr0 (s : State) : Host.Outcome State Fault Refusal :=
  .next (sendByte Code.armAddr0 s.tx0 Code.armStart s)

/-- ARM_START (R82): start the counters, load the cursor, restart the LED ramp. `led_out` is not written (D16). -/
def execArmStart (s : State) : Host.Outcome State Fault Refusal :=
  .next { counterStart s (clockEdge Code.armStart s) with
    rem := s.track.length
    ledStep := 0
    ledDir := .rising
    ledTick := 0
    seq := Code.sCheck }

end Sys2Proof.Machine
end

