-- ==== Sys2Proof/Machine/Done.lean ====
section
/-! DEFINITION. The state rules of the phase DONE (42_playback_sequencer.md R88 to R92). -/

namespace Sys2Proof.Machine

/-- D_STOP (R88): stop both counters; they still advance at this edge (R71). -/
def execDStop (s : State) : Host.Outcome State Fault Refusal :=
  .next { counterStop (clockEdge Code.dStop s) with seq := Code.dCsoff }

/-- D_CSOFF (R89): deassert chip-select. -/
def execDCsoff (s : State) : Host.Outcome State Fault Refusal :=
  .next { setCs true (clockEdge Code.dCsoff s) with seq := Code.dLedon }

/-- D_LEDON (R90): force the LED on. -/
def execDLedon (s : State) : Host.Outcome State Fault Refusal :=
  .next { clockEdge Code.dLedon s with ledOut := true, seq := Code.dAdvance }

/-- D_ADVANCE (R91): the next track. -/
def execDAdvance (s : State) : Host.Outcome State Fault Refusal :=
  .next { clockEdge Code.dAdvance s with
    trackIdx := nextTrack s.trackIdx
    wcnt := 0
    seq := Code.dSettle }

/-- D_SETTLE (R92): wait, then sleep again. -/
def execDSettle (s : State) : Host.Outcome State Fault Refusal :=
  .next (multiCycle s.cfg.settleCycles Code.dSettle returnToIdle s)

end Sys2Proof.Machine
end

