-- ==== Sys2Proof/Machine/Illegal.lean ====
section
/-! DEFINITION. The illegal codes 0x11..0x1F (42_playback_sequencer.md R93). -/

namespace Sys2Proof.Machine

/-- The rule of an illegal code `q`: go to IDLE, write nothing else (R93, D26). -/
def recoverIllegal (q : SeqCode) (s : State) : Host.Outcome State Fault Refusal :=
  .next (returnToIdle (clockEdge q s))

/-- ILLEGAL_11 (R93). -/
def execIllegal11 (s : State) : Host.Outcome State Fault Refusal := recoverIllegal 0x11#5 s

/-- ILLEGAL_12 (R93). -/
def execIllegal12 (s : State) : Host.Outcome State Fault Refusal := recoverIllegal 0x12#5 s

/-- ILLEGAL_13 (R93). -/
def execIllegal13 (s : State) : Host.Outcome State Fault Refusal := recoverIllegal 0x13#5 s

/-- ILLEGAL_14 (R93). -/
def execIllegal14 (s : State) : Host.Outcome State Fault Refusal := recoverIllegal 0x14#5 s

/-- ILLEGAL_15 (R93). -/
def execIllegal15 (s : State) : Host.Outcome State Fault Refusal := recoverIllegal 0x15#5 s

/-- ILLEGAL_16 (R93). -/
def execIllegal16 (s : State) : Host.Outcome State Fault Refusal := recoverIllegal 0x16#5 s

/-- ILLEGAL_17 (R93). -/
def execIllegal17 (s : State) : Host.Outcome State Fault Refusal := recoverIllegal 0x17#5 s

/-- ILLEGAL_18 (R93). -/
def execIllegal18 (s : State) : Host.Outcome State Fault Refusal := recoverIllegal 0x18#5 s

/-- ILLEGAL_19 (R93). -/
def execIllegal19 (s : State) : Host.Outcome State Fault Refusal := recoverIllegal 0x19#5 s

/-- ILLEGAL_1A (R93). -/
def execIllegal1A (s : State) : Host.Outcome State Fault Refusal := recoverIllegal 0x1A#5 s

/-- ILLEGAL_1B (R93). -/
def execIllegal1B (s : State) : Host.Outcome State Fault Refusal := recoverIllegal 0x1B#5 s

/-- ILLEGAL_1C (R93). -/
def execIllegal1C (s : State) : Host.Outcome State Fault Refusal := recoverIllegal 0x1C#5 s

/-- ILLEGAL_1D (R93). -/
def execIllegal1D (s : State) : Host.Outcome State Fault Refusal := recoverIllegal 0x1D#5 s

/-- ILLEGAL_1E (R93). -/
def execIllegal1E (s : State) : Host.Outcome State Fault Refusal := recoverIllegal 0x1E#5 s

/-- ILLEGAL_1F (R93). -/
def execIllegal1F (s : State) : Host.Outcome State Fault Refusal := recoverIllegal 0x1F#5 s

end Sys2Proof.Machine
end

