-- ==== Sys2Proof/Machine/Bus.lean ====
section
/-! DEFINITION. Whole SPI transactions of the programmer (R48), which drives the bus only while `rst = 1` (R125), and the
page program's effect (R61). -/

namespace Sys2Proof.Machine

/-- The bytes of a transaction, one exchange after the other (R46); the bytes the device returned. -/
def exchangeAll : List Byte → State → List Byte × State
  | [], s => ([], s)
  | tx :: rest, s =>
      let r := eeByte tx s
      let q := exchangeAll rest r.2
      (r.1 :: q.1, q.2)

/-- One transaction (R48): chip-select falls, the bytes, chip-select rises. -/
def transaction (bytes : List Byte) (s : State) : List Byte × State :=
  let r := exchangeAll bytes (csFall s)
  (r.1, csRise r.2)

/-- A transaction of the programmer at an edge with `rst = 1`: the block is reset at that edge (R121), and the device takes
the bytes. The returned bytes are kept for the outside to see. -/
def programmerFrame (bytes : List Byte) (s : State) : State :=
  let r := transaction bytes (resetEdge s)
  { r.2 with busRx := r.1 }

/-- A status byte (R62): bit 0 is WIP, bits 7..1 are the draw's. -/
def statusByte (wip : Bool) (d : Byte) : Byte := (d &&& 0xFE#8) ||| (if wip then 1#8 else 0#8)

/-- Cells at the given addresses, each with a fresh draw. -/
def drawCells : List Nat → State → List Host.Cell × State
  | [], s => ([], s)
  | a :: rest, s =>
      let d := drawByte s
      let q := drawCells rest d.2
      ((a, d.1) :: q.1, q.2)

/-- The page of an address: pages are 128 bytes (R2, R61). -/
def pageOf (a : Nat) : Nat := a / 128

/-- The addresses `a .. a + n - 1`. -/
def span (a n : Nat) : List Nat := List.range' a n

/-- The 24-bit addresses of the pages `p .. q`; beyond the last page they go on at address 0. -/
def pageSpan (p q : Nat) : List Nat := (List.range' (128 * p) (128 * (q + 1 - p))).map fun a => a % 2 ^ 24

/-- The cells of a page program of `data` at `a` (R61): `data`, when the device was enabled, is not busy and the bytes lie in
one page. Otherwise the sources do not say and the result is any value (K12): draws, over the addressed bytes, or over the
whole pages the range touches when it crosses a page boundary (log entry 12). Cells outside the array are in the list too; they
are not written when the cycle completes (`Eeprom.atResetEdge`). -/
def programCells (a : Nat) (data : List Byte) (s : State) : List Host.Cell × State :=
  if pageOf a ≠ pageOf (a + data.length - 1) then
    drawCells (pageSpan (pageOf a) (pageOf (a + data.length - 1))) s
  else if s.ee.writeEnabled = true ∧ s.ee.busy = false then
    ((span a data.length).zip data, s)
  else drawCells (span a data.length) s

/-- Start a page program (R61): the device is busy with its cells from now on, and the write enable, which was for this
one operation, is used up (R60). DEDUCED, log entry 16. DESIGN CHOICE, log entry 12: it is busy also after a page program
without WREN or across pages, of which the spec gives no result. -/
def startProgram (a : Nat) (data : List Byte) (s : State) : State :=
  let r := programCells a data s
  { r.2 with ee := { r.2.ee with program := r.2.ee.program ++ r.1, writeEnabled := false } }

/-- The cells of a page-program frame outside R50's form: with no address or no data none, and with more than 128 data bytes,
which cross a page, draws over the whole pages they touch (K12; log entry 12). -/
def malformedCells (bytes : List Byte) (s : State) : List Host.Cell × State :=
  match bytes with
  | _ :: a2 :: a1 :: a0 :: _ :: rest =>
      let a := (joinAddr a2 a1 a0).toNat
      drawCells (pageSpan (pageOf a) (pageOf (a + rest.length))) s
  | _ => ([], s)

/-- A transaction that is no row of the table: the device takes it byte by byte (R46, R51; log entry 14). One that begins
with the byte of WREN or PP leaves the write enable at a free bit, and one of PP may write (log entries 12, 13). -/
def rawFrame (bytes : List Byte) (s : State) : State :=
  let t := programmerFrame bytes s
  if bytes.headD 0 = Cmd.wren ∨ bytes.headD 0 = Cmd.pp then
    let d := drawByte t
    let r := if bytes.headD 0 = Cmd.pp then malformedCells bytes d.2 else ([], d.2)
    { r.2 with ee := { r.2.ee with program := r.2.ee.program ++ r.1, writeEnabled := d.1.getLsbD 0 } }
  else t

end Sys2Proof.Machine
end

