-- ==== Sys2Proof/Machine/SpiCommands.lean ====
section
/-! DEFINITION. The five SPI commands (40_byte_transport_spi.md R59 to R63) as transactions of the bus master before
reset is released. The engine's own READ is the state sequence ARM_LOAD..D_CSOFF of Armed.lean and Streaming.lean. -/

namespace Sys2Proof.Machine

/-- READ (R59): the command, the address most significant byte first, then `count` data bytes, each advancing `ee_ptr`. -/
def execRead (start : EeAddr) (count : Nat) (s : State) : Host.Outcome State Fault Refusal :=
  .next (programmerFrame (frameBytes (.read start count)) s)

/-- WREN (R60): a one-byte frame; the device enables the next program operation. -/
def execWren (s : State) : Host.Outcome State Fault Refusal :=
  let t := programmerFrame (frameBytes .wren) s
  .next { t with ee := { t.ee with writeEnabled := true } }

/-- PP (R61): the frame, then the program cycle runs. Without 1 to 128 data bytes (R50) it is a frame outside the table. -/
def execPp (start : EeAddr) (data : List Byte) (s : State) : Host.Outcome State Fault Refusal :=
  if (Instr.pp start data).wf then
    .next (startProgram start.toNat data (programmerFrame (frameBytes (.pp start data)) s))
  else .next (rawFrame (frameBytes (.pp start data)) s)

/-- RDSR (R62): after the command byte every returned byte is a status byte. -/
def execRdsr (count : Nat) (s : State) : Host.Outcome State Fault Refusal :=
  let t := programmerFrame (frameBytes (.rdsr count)) s
  .next { t with busRx := t.busRx.take 1 ++ (t.busRx.drop 1).map (statusByte t.ee.busy) }

/-- RDID (R63): the three ID bytes are draws. -/
def execRdid (s : State) : Host.Outcome State Fault Refusal :=
  .next (programmerFrame (frameBytes .rdid) s)

end Sys2Proof.Machine
end

