-- ==== Sys2Proof/Machine/Streaming.lean ====
section
/-! DEFINITION. The state rules of the phase STREAMING (42_playback_sequencer.md R83 to R87). -/

namespace Sys2Proof.Machine

/-- S_CHECK (R83): the loop test. -/
def execSCheck (s : State) : Host.Outcome State Fault Refusal :=
  .next { clockEdge Code.sCheck s with seq := if s.rem = 0 then Code.dStop else Code.sFetch }

/-- S_FETCH (R84): one sample byte. -/
def execSFetch (s : State) : Host.Outcome State Fault Refusal :=
  .next (multiCycle s.cfg.spiByteCycles Code.sFetch
    (fun t =>
      let r := spiXfer dummyTx t
      { r.2 with sample := r.1, seq := Code.sDuty }) s)

/-- S_DUTY (R85): the only write to the duty register. -/
def execSDuty (s : State) : Host.Outcome State Fault Refusal :=
  .next { clockEdge Code.sDuty s with cmpBuf := s.sample, seq := Code.sLed }

/-- S_LED (R86): the ramp, then the output, which reads the new step. -/
def execSLed (s : State) : Host.Outcome State Fault Refusal :=
  .next { ledOutput (ledRampStep (clockEdge Code.sLed s)) with seq := Code.sWait }

/-- S_WAIT (R87): the rendezvous. Clearing `ovf` is part of `clockEdge` (R67). -/
def execSWait (s : State) : Host.Outcome State Fault Refusal :=
  .next (if s.ovf then { clockEdge Code.sWait s with rem := s.rem - 1, seq := Code.sCheck }
    else { clockEdge Code.sWait s with seq := Code.sWait })

end Sys2Proof.Machine
end

