-- ==== Sys2Proof/Machine/Dispatch.lean ====
section
/-! DEFINITION. The dispatch of an instruction to its meaning. -/

namespace Sys2Proof.Machine

def exec (i : Instr) (s : State) : Host.Outcome State Fault Refusal :=
  match i with
  | .read start count => Sys2Proof.Machine.execRead start count s
  | .wren => Sys2Proof.Machine.execWren s
  | .pp start data => Sys2Proof.Machine.execPp start data s
  | .rdsr count => Sys2Proof.Machine.execRdsr count s
  | .rdid => Sys2Proof.Machine.execRdid s
  | .idle => Sys2Proof.Machine.execIdle s
  | .armLoad => Sys2Proof.Machine.execArmLoad s
  | .armCmd => Sys2Proof.Machine.execArmCmd s
  | .armAddr2 => Sys2Proof.Machine.execArmAddr2 s
  | .armAddr1 => Sys2Proof.Machine.execArmAddr1 s
  | .armAddr0 => Sys2Proof.Machine.execArmAddr0 s
  | .armStart => Sys2Proof.Machine.execArmStart s
  | .sCheck => Sys2Proof.Machine.execSCheck s
  | .sFetch => Sys2Proof.Machine.execSFetch s
  | .sDuty => Sys2Proof.Machine.execSDuty s
  | .sLed => Sys2Proof.Machine.execSLed s
  | .sWait => Sys2Proof.Machine.execSWait s
  | .dStop => Sys2Proof.Machine.execDStop s
  | .dCsoff => Sys2Proof.Machine.execDCsoff s
  | .dLedon => Sys2Proof.Machine.execDLedon s
  | .dAdvance => Sys2Proof.Machine.execDAdvance s
  | .dSettle => Sys2Proof.Machine.execDSettle s
  | .illegal11 => Sys2Proof.Machine.execIllegal11 s
  | .illegal12 => Sys2Proof.Machine.execIllegal12 s
  | .illegal13 => Sys2Proof.Machine.execIllegal13 s
  | .illegal14 => Sys2Proof.Machine.execIllegal14 s
  | .illegal15 => Sys2Proof.Machine.execIllegal15 s
  | .illegal16 => Sys2Proof.Machine.execIllegal16 s
  | .illegal17 => Sys2Proof.Machine.execIllegal17 s
  | .illegal18 => Sys2Proof.Machine.execIllegal18 s
  | .illegal19 => Sys2Proof.Machine.execIllegal19 s
  | .illegal1A => Sys2Proof.Machine.execIllegal1A s
  | .illegal1B => Sys2Proof.Machine.execIllegal1B s
  | .illegal1C => Sys2Proof.Machine.execIllegal1C s
  | .illegal1D => Sys2Proof.Machine.execIllegal1D s
  | .illegal1E => Sys2Proof.Machine.execIllegal1E s
  | .illegal1F => Sys2Proof.Machine.execIllegal1F s

end Sys2Proof.Machine
end

