-- ==== Sys2Proof/Machine/Admission.lean ====
section
/-! DEFINITION. Which configurations the model admits (00_scope.md R8, with the ranges of R7). -/

namespace Sys2Proof

/-- `WF_STEPS` (R8). -/
abbrev Params.okSteps (p : Params) : Prop := 1 ≤ p.steps ∧ p.steps ≤ 65535

/-- `WF_LST` (R8). -/
abbrev Params.okLst (p : Params) : Prop := 1 ≤ p.ledStepTime ∧ p.ledStepTime ≤ 65535

/-- `WF_PS` (R8). -/
abbrev Params.okPs (p : Params) : Prop := 1 ≤ p.samplePeriod ∧ p.samplePeriod ≤ 65535

/-- `WF_SPI` (R8). -/
abbrev Params.okSpi (p : Params) : Prop := 1 ≤ p.spiByteCycles.toNat

/-- `WF_SETTLE` (R8). -/
abbrev Params.okSettle (p : Params) : Prop := 1 ≤ p.settleCycles.toNat

/-- `TRACKS[i].start + TRACKS[i].length`, exact. -/
def Track.finish (t : Track) : Nat := t.start.toNat + t.length.toNat

/-- `WF_FIT` (R8). -/
abbrev Params.okFit (p : Params) : Prop :=
  (∀ i : Fin 5, p.tracks[i].finish ≤ p.eeSize) ∧ p.eeSize ≤ 16777216

/-- `WF_ORDER` (R8). -/
abbrev Params.okOrder (p : Params) : Prop :=
  ∀ i : Fin 4, p.tracks[i.castSucc].finish ≤ p.tracks[i.succ].start.toNat

/-- `F_CLK > 0` (R7). -/
abbrev Params.okFClk (p : Params) : Prop := 0 < p.fClk

/-- `EE_SIZE >= 1` (R7); its upper bound is a part of `WF_FIT`. -/
abbrev Params.okEeSize (p : Params) : Prop := 1 ≤ p.eeSize

/-- The name of a check that a configuration fails; none if the model admits it. Where several fail, it is the first of R8's in
the order R8 lists them, and then of the two ranges of R7: R8 says only 'the name of the failing check' (DESIGN CHOICE, log
entry 29). -/
def Params.failing (p : Params) : Option ConfigCheck :=
  if ¬ p.okSteps then some .wfSteps
  else if ¬ p.okLst then some .wfLst
  else if ¬ p.okPs then some .wfPs
  else if ¬ p.okSpi then some .wfSpi
  else if ¬ p.okSettle then some .wfSettle
  else if ¬ p.okFit then some .wfFit
  else if ¬ p.okOrder then some .wfOrder
  else if ¬ p.okFClk then some .rangeFClk
  else if ¬ p.okEeSize then some .rangeEeSize
  else none

end Sys2Proof
end

