-- ==== Sys2Proof/Machine/Fetch.lean ====
section
/-! DEFINITION. What the next step runs: the state rule of `seq` (R74), a reset edge (R121), a transaction of the
programmer (R125), or a refusal (K8, K19, K20). -/

namespace Sys2Proof.Machine

/-- What an edge with `rst = 0` runs: the state rule of `seq` (R74). The boot order (R124) has the image programmed and the
device idle by then (R126); where it is not so the run is refused (K19, K8), the busy device first (DESIGN CHOICE, log entry
29). -/
def fetchRunning (s : State) : Fetched :=
  if s.ee.busy then .refuse .deviceBusy
  else if s.imageProgrammed then .instr (decodeSeq s.seq)
  else .refuse .unprogrammedImage

/-- The step's choice at an edge. At every edge with `rst = 1` the programmer may be on the bus, also after a first release of
reset (DESIGN CHOICE, log entry 27). -/
def fetch (s : State) : Fetched :=
  match s.cfg.failing with
  | some check => .refuse (.badConfig check)
  | none =>
    match s.inputs.reset with
    | none => fetchRunning s
    | some held =>
      match held.frame with
      | none => .resetOnly
      | some bytes =>
        match decodeFrame bytes with
        | .ok i => .instr i
        | .error _ => .raw bytes

/-- The inputs of one edge with `rst = 0` and the button released. -/
def runInput : Inputs := { btn := true }

/-- The inputs of one edge with `rst = 1` at which the programmer sends `bytes`. -/
def frameInput (bytes : List Byte) : Inputs :=
  { btn := true, reset := some { frame := some bytes } }

/-- `s` with an encoded instruction where the next step fetches it (log entry 11): a state code goes into `seq`, a frame
onto the bus. A state code also needs `rst = 0` at the next edge, an idle device and a programmed image, and any step
needs an admitted configuration. -/
def place (e : Encoded) (s : State) : State :=
  let t := { s with cfg := if s.cfg.failing = none then s.cfg else Params.atReset }
  match e with
  | .code c => { t with seq := c, stim := runInput :: s.stim, ee := { s.ee with program := [] }, imageProgrammed := true }
  | .frame bytes => { t with stim := frameInput bytes :: s.stim }

end Sys2Proof.Machine
end

