-- ==== Sys2Proof/Machine/Step.lean ====
section
/-! DEFINITION. One step of the machine: one rising edge of `clk` (R5, R6). -/

namespace Sys2Proof.Machine

/-- One edge (R74, R121). -/
def step (s : State) : Host.Outcome State Fault Refusal :=
  match fetch s with
  | .instr i => exec i s
  | .resetOnly => .next (resetEdge s)
  | .raw bytes => .next (rawFrame bytes s)
  | .refuse r => .refused r

/-- `s` with the instruction of a table word placed where the next step fetches it. -/
def State.withFetchWord (s : State) (nbits w : Nat) : State := place (tableWord nbits w) s

end Sys2Proof.Machine
end

