-- ==== Sys2Proof/Machine/Ports.lean ====
section
/-! DEFINITION. The output ports (10_state.md R30) as functions of the state. -/

namespace Sys2Proof.Machine

/-- The four phases (R16). -/
inductive Phase where
  | idle
  | armed
  | streaming
  | done
  deriving DecidableEq, Repr

/-- The phase of a state code; IDLE for an illegal one (R16). -/
def phaseOf (q : SeqCode) : Phase :=
  if q = 0x00#5 then .idle
  else if q ≤ 0x06#5 then .armed
  else if q ≤ 0x0B#5 then .streaming
  else if q ≤ 0x10#5 then .done
  else .idle

/-- The two bits of the port `phase` (R16). -/
def phaseBits : Phase → BitVec 2
  | .idle => 0b00#2
  | .armed => 0b01#2
  | .streaming => 0b10#2
  | .done => 0b11#2

/-- The port `phase` (R16, R30). -/
def State.phase (s : State) : BitVec 2 := phaseBits (phaseOf s.seq)

/-- The port `pwm_out` (R69). -/
def State.pwmOut (s : State) : Bool := decide (s.perP ≠ 0 ∧ s.cntP.toNat < s.cmpAct.toNat)

/-- The port `spi_cs_n` (R30). -/
def State.spiCsN (s : State) : Bool := s.csN

/-- The byte the engine is sending, in a state that exchanges one (R78 to R81, R84). -/
def State.sending (s : State) : Option Byte :=
  if s.seq = Code.armCmd then some Cmd.read
  else if s.seq = Code.armAddr2 then some s.tx2
  else if s.seq = Code.armAddr1 then some s.tx1
  else if s.seq = Code.armAddr0 then some s.tx0
  else if s.seq = Code.sFetch then some dummyTx
  else none

/-- The port `spi_sck` in the cycle before the next edge (R57, informative). With `SPI_BYTE_CYCLES` other than 16 it is free in
every cycle, outside a byte exchange too (K10; log entry 10). -/
def State.spiSck (s : State) : Bool :=
  if s.cfg.spiByteCycles = 16 then
    match s.sending with
    | none => false
    | some _ => decide (s.wcnt.toNat % 2 = 1)
  else Config.freeSck s.edge

/-- The port `spi_mosi` in the cycle before the next edge (R57, informative). With `SPI_BYTE_CYCLES` other than 16 it is free in
every cycle, outside a byte exchange too (K10; log entry 10). -/
def State.spiMosi (s : State) : Bool :=
  if s.cfg.spiByteCycles = 16 then
    match s.sending with
    | none => false
    | some tx => tx.getLsbD (7 - s.wcnt.toNat / 2)
  else Config.freeMosi s.edge

/-- The sample rate is exactly 8000 Hz: `F_CLK = 8000 * SAMPLE_PERIOD` (R7, R72). -/
def atNominalRate (p : Params) : Bool := decide (p.fClk = 8000 * p.samplePeriod)

end Sys2Proof.Machine
end

