-- ==== Sys2Proof/Safety.lean ====
section
/-! DEFINITION. What claims are stated in: the invariants of R32, what streaming keeps (R40, R59, R132), the timing
contract (R128), and the triangle of the LED ramp (R101). -/

namespace Sys2Proof.Machine

/-- The code of `seq` lies in `lo..hi`. -/
abbrev State.seqIn (s : State) (lo hi : Nat) : Prop := lo ≤ s.seq.toNat ∧ s.seq.toNat ≤ hi

/-- The invariants I1 to I8 of R32, under an admitted configuration, with the range R20 gives `rem` (at least 1 from
S_FETCH to S_WAIT) and the range R24 gives a running `cnt_s`. -/
structure State.Inv (s : State) : Prop where
  /-- the configuration passes every check of R8 -/
  admitted : s.cfg.failing = none
  /-- I1 -/
  seqLegal : s.seq.toNat ≤ 0x10
  /-- I2 -/
  trackLegal : s.trackIdx.toNat ≤ 4
  /-- I3 -/
  periods : (s.perP = 0 ∧ s.perS = 0) ∨ (s.perP = 256 ∧ s.perS.toNat = s.cfg.samplePeriod)
  /-- I4 -/
  running : s.perP ≠ 0 ↔ s.seqIn 0x07 0x0C
  /-- I5 -/
  selected : s.csN = false ↔ s.seqIn 0x02 0x0D
  /-- I6 -/
  ramp : (s.ledDir = .rising → s.ledStep.toNat < s.cfg.steps) ∧
    (s.ledDir = .falling → 0 < s.ledStep.toNat) ∧ s.ledStep.toNat ≤ s.cfg.steps
  /-- I7 -/
  tick : s.ledTick.toNat < s.cfg.ledStepTime
  /-- I8 -/
  waits : ¬ (s.seqIn 0x02 0x05 ∨ s.seq = Code.sFetch ∨ s.seq = Code.dSettle) → s.wcnt = 0
  /-- R20, R87 -/
  remaining : s.seqIn 0x08 0x0B → s.rem ≠ 0
  /-- R24 -/
  sampleCount : s.perS ≠ 0 → s.cntS.toNat < s.perS.toNat

/-- The sample position of the iteration under way: how many samples of the track were consumed (R40). -/
def State.position (s : State) : Nat := s.track.length.toNat - s.rem.toNat

/-- What the engine's READ transaction and the EEPROM agree on, state by state (R40, R44, R46, R59): the device's mode, the
address it was given, where its pointer stands, and which byte the data path holds. -/
structure State.Streams (s : State) : Prop where
  /-- the device is idle, and its image programmed, once the engine has left IDLE (R126, R124) -/
  ready : s.seq ≠ Code.idle → s.ee.program = [] ∧ s.imageProgrammed = true
  /-- chip-select high: mode OFF (R44) -/
  closed : s.csN = true → s.ee.mode = .off
  /-- the mode in each byte state of ARMED (R78 to R81) -/
  atCmd : s.seq = Code.armCmd → s.ee.mode = .cmd
  atAddr2 : s.seq = Code.armAddr2 → s.ee.mode = .addr 0
  atAddr1 : s.seq = Code.armAddr1 → s.ee.mode = .addr 1 ∧ s.ee.abuf0 = s.tx2
  atAddr0 : s.seq = Code.armAddr0 → s.ee.mode = .addr 2 ∧ s.ee.abuf0 = s.tx2 ∧ s.ee.abuf1 = s.tx1
  /-- from ARM_START to D_CSOFF a READ is streaming (R81) -/
  streaming : s.seqIn 0x06 0x0D → s.ee.mode = .data
  /-- `addr` is the current track's start while the transaction is open (R77) -/
  address : s.seqIn 0x02 0x0D → s.addr = s.track.start
  /-- the pointer before the first sample (R81) -/
  atStart : s.seq = Code.armStart → s.ee.ptr = s.addr
  /-- `rem` counts down from the track's length (R82, R87) -/
  count : s.seqIn 0x07 0x0D → s.rem.toNat ≤ s.track.length.toNat
  /-- the pointer before the fetch of sample `position` (R40) -/
  pointer : s.seqIn 0x07 0x08 → s.ee.ptr = s.track.start + BitVec.ofNat 24 s.position
  /-- the pointer after it -/
  pointerNext : s.seqIn 0x09 0x0B → s.ee.ptr = s.track.start + BitVec.ofNat 24 (s.position + 1)
  /-- `sample` holds byte `position` of the track (R40, R84) -/
  fetched : s.seqIn 0x09 0x0B → s.sample = Memory.read s.ee.mem (s.track.start.toNat + s.position)
  /-- and `cmp_buf` does from S_DUTY's edge on (R40, R85) -/
  written : s.seqIn 0x0A 0x0B → s.cmpBuf = Memory.read s.ee.mem (s.track.start.toNat + s.position)

/-- The timing contract `P >= N + 4` (R128). -/
abbrev meetsContract (p : Params) : Prop := p.spiByteCycles.toNat + 4 ≤ p.samplePeriod

/-- Where the sample counter can stand in each state of STREAMING under the timing contract (R94, R128), with no
diagnostic bit set. -/
structure State.OnTime (s : State) : Prop where
  late : s.faultLate = false
  ovr : s.faultOvr = false
  check : s.seq = Code.sCheck → s.ovf = false ∧ s.cntS.toNat ≤ 1
  fetch : s.seq = Code.sFetch →
    s.ovf = false ∧ s.wcnt.toNat < s.cfg.spiByteCycles.toNat ∧ s.cntS.toNat ≤ s.wcnt.toNat + 2
  duty : s.seq = Code.sDuty → s.ovf = false ∧ s.cntS.toNat ≤ s.cfg.spiByteCycles.toNat + 2
  led : s.seq = Code.sLed → s.ovf = false ∧ s.cntS.toNat ≤ s.cfg.spiByteCycles.toNat + 3
  wait : s.seq = Code.sWait → s.ovf = true → s.cntS = 0

/-- What a check of R8, or a range of R7, says is wrong, in the rules' own inequalities. -/
def checkFails (p : Params) : ConfigCheck → Prop
  | .wfSteps => ¬ (1 ≤ p.steps ∧ p.steps ≤ 65535)
  | .wfLst => ¬ (1 ≤ p.ledStepTime ∧ p.ledStepTime ≤ 65535)
  | .wfPs => ¬ (1 ≤ p.samplePeriod ∧ p.samplePeriod ≤ 65535)
  | .wfSpi => ¬ 1 ≤ p.spiByteCycles.toNat
  | .wfSettle => ¬ 1 ≤ p.settleCycles.toNat
  | .wfFit => ¬ (∀ i : Fin 5, p.tracks[i].start.toNat + p.tracks[i].length.toNat ≤ p.eeSize ∧ p.eeSize ≤ 2 ^ 24)
  | .wfOrder => ¬ (∀ i : Fin 4,
      p.tracks[i.castSucc].start.toNat + p.tracks[i.castSucc].length.toNat ≤ p.tracks[i.succ].start.toNat)
  | .rangeFClk => ¬ 0 < p.fClk
  | .rangeEeSize => ¬ 1 ≤ p.eeSize

/-- `s` after an edge with `rst = 0` that only the edge rules wrote (R64 to R68, R105, R106, R108), their eight registers
taken from `t`: what an instruction's statement compares with. -/
def edgeFrame (s t : State) : State :=
  { s with
    cntP := t.cntP, cntS := t.cntS, ovf := t.ovf, cmpAct := t.cmpAct
    trigQ := t.trigQ, trigPend := t.trigPend, faultLate := t.faultLate, faultOvr := t.faultOvr
    stim := s.stim.tail, edge := s.edge + 1 }

/-- The reset edge from `s`, with what a programmer's transaction may write taken from `t`. -/
def resetFrame (s t : State) : State :=
  { resetEdge s with ee := t.ee, draws := t.draws, busRx := t.busRx }

/-- The states that last several cycles: cost and successor (R75, R53). -/
def longStates (p : Params) : List (Instr × Nat × SeqCode) :=
  [(.armCmd, p.spiByteCycles.toNat, 0x03#5), (.armAddr2, p.spiByteCycles.toNat, 0x04#5),
   (.armAddr1, p.spiByteCycles.toNat, 0x05#5), (.armAddr0, p.spiByteCycles.toNat, 0x06#5),
   (.sFetch, p.spiByteCycles.toNat, 0x09#5), (.dSettle, p.settleCycles.toNat, 0x00#5)]

/-- A sample-tick overflow event at the next edge (R66). -/
abbrev State.tickNow (s : State) : Prop := s.perS ≠ 0 ∧ s.cntS.toNat + 1 = s.perS.toNat

/-- A carrier wrap at the next edge (R64). -/
abbrev State.wrapNow (s : State) : Prop := s.perP ≠ 0 ∧ s.cntP.toNat + 1 = s.perP.toNat

/-- The triangle wave of R101: `tri(m)`, with `S = STEPS`. -/
def triangle (steps m : Nat) : Nat :=
  if m % (2 * steps) ≤ steps then m % (2 * steps) else 2 * steps - m % (2 * steps)

/-- How many LED updates of the session under way were made: the samples consumed, and in S_WAIT the one in hand too. -/
def State.ledUpdates (s : State) : Nat := if s.seq = Code.sWait then s.position + 1 else s.position

/-- From ARM_START's edge to D_CSOFF the LED ramp stands where `tri` puts it after that many samples (R82, R98; R101). -/
structure State.OnRamp (s : State) : Prop where
  /-- `rem` counts down from the track's length (R82, R87) -/
  count : s.seqIn 0x07 0x0D → s.rem.toNat ≤ s.track.length.toNat
  /-- `led_step` -/
  step : s.seqIn 0x07 0x0D → s.ledStep.toNat = triangle s.cfg.steps (s.ledUpdates / s.cfg.ledStepTime)
  /-- `led_tick` -/
  tick : s.seqIn 0x07 0x0D → s.ledTick.toNat = s.ledUpdates % s.cfg.ledStepTime
  /-- `led_dir` -/
  dir : s.seqIn 0x07 0x0D →
    s.ledDir = if s.ledUpdates / s.cfg.ledStepTime % (2 * s.cfg.steps) < s.cfg.steps then .rising else .falling

/-- `n` times `LedRampStep`, one for each S_LED of a session (R98). -/
def ledRampTimes : Nat → State → State
  | 0, t => t
  | n + 1, t => ledRampStep (ledRampTimes n t)

end Sys2Proof.Machine
end

