-- ==== Sys2Proof/Certificates/Slice0/Obligations.lean ====
section
/-! DEFINITION. The statements for the provers. Each docstring names the rule of spec/ it comes from. A statement of the
form "there is t with exec i s = next t and …" is also the completion statement of the instructions it names. -/

open Sys2Proof Sys2Proof.Machine

/-- Words written out from R49 and R53 decode to the instruction they stand for. -/
def Obligations.SpecWordsDecode : Prop :=
  decode (.frame [0x03#8, 0x01#8, 0x23#8, 0x45#8]) = .ok (.read 0x012345#24 0) ∧
  decode (.frame [0x06#8]) = .ok .wren ∧
  decode (.frame [0x02#8, 0x00#8, 0x00#8, 0x80#8, 0xAA#8, 0xBB#8]) = .ok (.pp 0x000080#24 [0xAA#8, 0xBB#8]) ∧
  decode (.frame [0x05#8, 0x00#8]) = .ok (.rdsr 1) ∧
  decode (.frame [0x9F#8, 0x00#8, 0x00#8, 0x00#8]) = .ok .rdid ∧
  decode (.code 0b00000#5) = .ok .idle ∧
  decode (.code 0b00110#5) = .ok .armStart ∧
  decode (.code 0b01011#5) = .ok .sWait ∧
  decode (.code 0b10000#5) = .ok .dSettle ∧
  decode (.code 0b10101#5) = .ok .illegal15

/-- Decoding the encoding of a well-formed instruction gives it back, every operand at every value (R48, R49, R53, R54). -/
def Obligations.DecodeOfEncode : Prop :=
  ∀ i : Instr, i.wf = true → decode (encode i) = .ok i

/-- What decodes is well formed, and its own frame has the same length and begins with the same command byte; where the
command carries an address, with the same address bytes (R48 to R50). -/
def Obligations.DecodedFramesAreWellFormed : Prop :=
  ∀ bytes i, decodeFrame bytes = .ok i →
    i.wf = true ∧ (frameBytes i).length = bytes.length ∧ (frameBytes i).head? = bytes.head? ∧
    (bytes.head? = some 0x03#8 ∨ bytes.head? = some 0x02#8 → (frameBytes i).take 4 = bytes.take 4)

/-- Only the five command bytes begin an instruction (R49, R51). -/
def Obligations.OtherCommandBytesRejected : Prop :=
  ∀ c rest, c ∉ [0x03#8, 0x06#8, 0x02#8, 0x05#8, 0x9F#8] →
    decodeFrame (c :: rest) = .error (.unknownCommand c)

/-- A step runs the decoded instruction: with `rst = 0`, under an admitted configuration, with an idle device and a
programmed image (R124), the step is the state rule of the pre-edge `seq` (R74). -/
def Obligations.StepRunsStateOfSeq : Prop :=
  ∀ s : State, s.cfg.failing = none → s.inputs.reset = none → s.ee.program = [] → s.imageProgrammed = true →
    ∃ i, decode (.code s.seq) = .ok i ∧ step s = exec i s

/-- A step runs the decoded instruction: with `rst = 1` and a transaction of the table on the bus, the step is that
command (R125; log entry 8: one transaction at one edge is the model's choice). -/
def Obligations.StepRunsProgrammerCommand : Prop :=
  ∀ (s : State) held bytes i, s.cfg.failing = none → s.inputs.reset = some held → held.frame = some bytes →
    decode (.frame bytes) = .ok i → step s = exec i s

/-- A configuration is admitted exactly when no check of R8 fails and the two ranges of R7 that R8 leaves out hold (to refuse
these two by names of their own is the model's choice, log entry 2), and is then never refused as a configuration; else the
step is refused by the name of a check that does fail (R8). -/
def Obligations.ConfigurationRefusedByCheckName : Prop :=
  ∀ s : State,
    (s.cfg.failing = none ↔ ∀ c, ¬ checkFails s.cfg c) ∧
    (s.cfg.failing = none → ∀ c, step s ≠ .refused (.badConfig c)) ∧
    (∀ c, s.cfg.failing = some c → checkFails s.cfg c ∧ step s = .refused (.badConfig c))

/-- A device still busy while `rst = 0`, which R126 excludes, is refused (K19), and so is an image that was never programmed
(K8, R124). Whether it was is told by a mark that only an edge with `rst = 1` at which the bootstrap finishes can set, and that
no step clears: the model's choice (log entry 28). With both at once the device is named (log entry 29). -/
def Obligations.UnreadyEepromRefusedAtRelease : Prop :=
  (∀ s : State, s.cfg.failing = none → s.inputs.reset = none → s.ee.program ≠ [] →
    step s = .refused .deviceBusy) ∧
  (∀ s : State, s.cfg.failing = none → s.inputs.reset = none → s.ee.program = [] → s.imageProgrammed = false →
    step s = .refused .unprogrammedImage) ∧
  ∀ s t : State, step s = .next t →
    (t.imageProgrammed = true ↔
      s.imageProgrammed = true ∨ ∃ held, s.inputs.reset = some held ∧ held.imageDone = true)

/-- An edge with `rst = 1` under an admitted configuration completes, whatever is on the bus, and leaves every register at its
value of R33 and the EEPROM in OFF (R33 derives it from R44). The configuration stays (log entry 19), and so does the image
unless a program cycle completes at that edge (log entry 17). The mark of a programmed image stays or is set (log entry 28).
That a frame can be on the bus at one edge, at any edge with `rst = 1`, is the model's choice (log entries 8, 27). -/
def Obligations.ResetEdgeGivesResetValues : Prop :=
  ∀ (s : State) (held : Held), s.cfg.failing = none → s.inputs.reset = some held →
    ∃ t, step s = .next t ∧
      t.seq = 0x00#5 ∧ t.wcnt = 0 ∧ t.trackIdx = 0 ∧ t.addr = 0 ∧ t.rem = 0 ∧ t.sample = 0 ∧
      t.cmpBuf = 0 ∧ t.cmpAct = 0 ∧ t.cntP = 0 ∧ t.perP = 0 ∧ t.cntS = 0 ∧ t.perS = 0 ∧ t.ovf = false ∧
      t.ledStep = 0 ∧ t.ledDir = .rising ∧ t.ledTick = 0 ∧ t.ledOut = false ∧ t.csN = true ∧
      t.trigQ = false ∧ t.trigPend = false ∧ t.faultLate = false ∧ t.faultOvr = false ∧
      t.ee.mode = .off ∧ (held.progDone = false → t.ee.mem = s.ee.mem) ∧ t.cfg = s.cfg ∧
      t.imageProgrammed = (s.imageProgrammed || held.imageDone) ∧
      t.stim = s.stim.tail ∧ t.edge = s.edge + 1

/-- The reset state of every admitted configuration meets every invariant below (R33, R32). -/
def Obligations.ResetMeetsInvariants : Prop :=
  ∀ p : Params, p.failing = none →
    State.Inv { State.reset with cfg := p } ∧ State.Streams { State.reset with cfg := p } ∧
    State.OnTime { State.reset with cfg := p } ∧ State.OnRamp { State.reset with cfg := p } ∧
    State.reset.ee.mem.wf = true

/-- Every step keeps I1 to I8 with the ranges of `rem` and `cnt_s`. That they hold is the spec's own inference (R32, R20). -/
def Obligations.StepKeepsRegisterInvariants : Prop :=
  ∀ s t : State, s.Inv → step s = .next t → t.Inv

/-- Every step keeps what the engine and the EEPROM agree on while a READ is open: the induction behind R40's two
consequences, which are the spec's own inference, from R44 to R46 and the state rules. -/
def Obligations.StepKeepsStreaming : Prop :=
  ∀ s t : State, s.Inv → s.Streams → step s = .next t → t.Streams

/-- Under the timing contract `P >= N + 4`, every step keeps LATE and OVR clear, with the counter ranges that make it so. The
contract is the spec's own inference (R128), from the counter and state rules. -/
def Obligations.StepKeepsOnTime : Prop :=
  ∀ s t : State, s.Inv → s.OnTime → meetsContract s.cfg → step s = .next t → t.OnTime ∧ meetsContract t.cfg

/-- Every step keeps the EEPROM array's canonical form. -/
def Obligations.StepKeepsMemoryCanonical : Prop :=
  ∀ s t : State, s.ee.mem.wf = true → step s = .next t → t.ee.mem.wf = true

/-- While `rst = 0` no step changes a byte of the EEPROM (R126, R45) or the configuration (R127). That an edge with `rst = 1`
keeps the configuration too is the model's reading (log entry 19, DEDUCED). -/
def Obligations.ImageStableWhileRunning : Prop :=
  ∀ s t : State, step s = .next t →
    t.cfg = s.cfg ∧ (s.inputs.reset = none → ∀ a, Memory.read t.ee.mem a = Memory.read s.ee.mem a)

/-- A fetch reads inside the current track, and inside the array: the spec's own inference (R132). -/
def Obligations.FetchesStayInTrack : Prop :=
  ∀ s : State, s.Inv → s.Streams → s.seq = 0x08#5 →
    s.track.start.toNat ≤ s.ee.ptr.toNat ∧ s.ee.ptr.toNat < s.track.start.toNat + s.track.length.toNat ∧
    s.track.start.toNat + s.track.length.toNat ≤ s.cfg.eeSize

/-- The duty register gets, at sample `position` of the session, byte `position` of the track: the spec's own inference
(R40). -/
def Obligations.DutyIsTrackByte : Prop :=
  ∀ s : State, s.Inv → s.Streams → s.inputs.reset = none → s.seq = 0x09#5 →
    ∃ t, step s = .next t ∧
      t.cmpBuf = Memory.read s.ee.mem (s.track.start.toNat + (s.track.length.toNat - s.rem.toNat))

/-- The carrier counter at every edge (R64), with R70's override at ARM_START. -/
def Obligations.CarrierCounterAdvances : Prop :=
  ∀ (q : SeqCode) (s : State),
    ∃ t, exec (decodeSeq q) s = .next t ∧
      (q = 0x06#5 → t.cntP = 0) ∧
      (q ≠ 0x06#5 → s.perP = 0 → t.cntP = s.cntP) ∧
      (q ≠ 0x06#5 → s.perP ≠ 0 → t.cntP = BitVec.ofNat 8 ((s.cntP.toNat + 1) % s.perP.toNat)) ∧
      (q ≠ 0x06#5 → s.perP = 256 → t.cntP = s.cntP + 1) ∧
      (carrierWrap s = true ↔ s.perP ≠ 0 ∧ s.cntP.toNat + 1 = s.perP.toNat)

/-- The sample counter at every edge (R65), with R70's override at ARM_START. -/
def Obligations.SampleCounterAdvances : Prop :=
  ∀ (q : SeqCode) (s : State),
    ∃ t, exec (decodeSeq q) s = .next t ∧
      (q = 0x06#5 → t.cntS = 0) ∧
      (q ≠ 0x06#5 → s.perS = 0 → t.cntS = s.cntS) ∧
      (q ≠ 0x06#5 → s.perS ≠ 0 → t.cntS = BitVec.ofNat 16 ((s.cntS.toNat + 1) % s.perS.toNat)) ∧
      (q ≠ 0x06#5 → s.tickNow → t.cntS = 0)

/-- The overflow flag at every edge: a set wins over a clear, and ARM_START clears it (R67). -/
def Obligations.OverflowFlagSetWins : Prop :=
  ∀ (q : SeqCode) (s : State),
    ∃ t, exec (decodeSeq q) s = .next t ∧
      (q = 0x06#5 → t.ovf = false) ∧
      (q ≠ 0x06#5 → s.tickNow → t.ovf = true) ∧
      (q ≠ 0x06#5 → ¬ s.tickNow → q = 0x0B#5 → s.ovf = true → t.ovf = false) ∧
      (q ≠ 0x06#5 → ¬ s.tickNow → ¬ (q = 0x0B#5 ∧ s.ovf = true) → t.ovf = s.ovf)

/-- `cmp_act` at every edge: loaded at a wrap and at ARM_START, with the pre-edge `cmp_buf` (R68). -/
def Obligations.CompareLatchAtWrap : Prop :=
  ∀ (q : SeqCode) (s : State),
    ∃ t, exec (decodeSeq q) s = .next t ∧
      (s.wrapNow ∨ q = 0x06#5 → t.cmpAct = s.cmpBuf) ∧
      (¬ s.wrapNow → q ≠ 0x06#5 → t.cmpAct = s.cmpAct)

/-- LATE is raised exactly by an overflow event in S_FETCH, or in S_CHECK with samples left (R105). -/
def Obligations.LateBitRaised : Prop :=
  ∀ (q : SeqCode) (s : State),
    ∃ t, exec (decodeSeq q) s = .next t ∧
      (t.faultLate = true ↔
        s.faultLate = true ∨ (s.tickNow ∧ (q = 0x08#5 ∨ (q = 0x07#5 ∧ s.rem ≠ 0))))

/-- OVR is raised exactly by an overflow event on a set flag that S_WAIT does not clear at this edge, in S_CHECK..S_WAIT
(R106). -/
def Obligations.OvrBitRaised : Prop :=
  ∀ (q : SeqCode) (s : State),
    ∃ t, exec (decodeSeq q) s = .next t ∧
      (t.faultOvr = true ↔
        s.faultOvr = true ∨
          (s.tickNow ∧ s.ovf = true ∧ (q = 0x07#5 ∨ q = 0x08#5 ∨ q = 0x09#5 ∨ q = 0x0A#5)))

/-- Only reset clears a diagnostic bit, only R105 and R106 set one, and no rule reads one: with other bits before an edge,
every other register is the same after it (R107). -/
def Obligations.DiagnosticBitsStickyAndUnread : Prop :=
  (∀ s t : State, step s = .next t →
    (s.inputs.reset = none →
      t.faultLate = (s.faultLate || lateEvent s.seq s) ∧ t.faultOvr = (s.faultOvr || ovrEvent s.seq s)) ∧
    (s.inputs.reset ≠ none → t.faultLate = false ∧ t.faultOvr = false)) ∧
  ∀ (q : SeqCode) (s : State) (late ovr : Bool),
    ∃ t u, exec (decodeSeq q) s = .next t ∧
      exec (decodeSeq q) { s with faultLate := late, faultOvr := ovr } = .next u ∧
      u = { t with faultLate := u.faultLate, faultOvr := u.faultOvr }

/-- The edge detector at every edge (R108). -/
def Obligations.TriggerDetector : Prop :=
  ∀ (q : SeqCode) (s : State),
    ∃ t, exec (decodeSeq q) s = .next t ∧
      (t.trigPend = true ↔ s.trigQ = true ∧ s.inputs.btn = false) ∧ t.trigQ = s.inputs.btn

/-- A pending trigger outside IDLE changes nothing: it is discarded (R110). -/
def Obligations.EdgeOutsideIdleDiscarded : Prop :=
  ∀ (i : Instr) (s : State) (pending : Bool), i ≠ .idle →
    exec i { s with trigPend := pending } = exec i s

/-- The button's level at an edge changes nothing at that edge but the two detector registers (R108, R109). -/
def Obligations.ButtonReachesDetectorOnly : Prop :=
  ∀ (q : SeqCode) (s : State),
    ∃ t u, exec (decodeSeq q) { s with stim := { btn := true } :: s.stim } = .next t ∧
      exec (decodeSeq q) { s with stim := { btn := false } :: s.stim } = .next u ∧
      u = { t with trigQ := false, trigPend := s.trigQ }

/-- IDLE: a pending trigger is taken, else sleep goes on; nothing else is written (R76). -/
def Obligations.IdleSleepsUntilTrigger : Prop :=
  ∀ s : State, ∃ t, exec .idle s = .next t ∧
    t = { edgeFrame s t with seq := if s.trigPend = true then 0x01#5 else 0x00#5 }

/-- ARM_LOAD: the descriptor's start address, chip-select falls, and the EEPROM sees a new transaction (R77, R44). -/
def Obligations.ArmLoadOpensTransaction : Prop :=
  ∀ s : State, ∃ t, exec .armLoad s = .next t ∧
    (∀ h : s.trackIdx.toNat < 5, t.addr = s.cfg.tracks[s.trackIdx.toNat].start) ∧
    t = { edgeFrame s t with
      addr := t.addr, csN := false, wcnt := 0, seq := 0x02#5
      ee := { s.ee with mode := if s.csN = true then .cmd else s.ee.mode } }

/-- The states of several cycles: they stay and count on all but the last edge, with no other effect, and then clear the
count and go on (R75). At the last edge, beside the edge rules, only S_FETCH writes `sample`, and only the byte states reach the
device, of which they write the transaction registers. -/
def Obligations.LongStatesStayThenComplete : Prop :=
  ∀ s : State, ∀ x ∈ longStates s.cfg,
    (s.wcnt.toNat < x.2.1 - 1 →
      ∃ t, exec x.1 s = .next t ∧ t = { edgeFrame s t with wcnt := s.wcnt + 1 }) ∧
    (x.2.1 - 1 ≤ s.wcnt.toNat →
      ∃ t, exec x.1 s = .next t ∧
        t = { edgeFrame s t with wcnt := 0, seq := x.2.2, sample := t.sample, draws := t.draws, ee := t.ee } ∧
        (x.1 ≠ .sFetch → t.sample = s.sample) ∧
        (x.1 = .dSettle → t.ee = s.ee ∧ t.draws = s.draws) ∧
        t.ee.mem = s.ee.mem ∧ t.ee.program = s.ee.program ∧ t.ee.writeEnabled = s.ee.writeEnabled)

/-- ARM_CMD at its last edge: the byte 0x03 takes the EEPROM from CMD to ADDR(0) (R78, R46). -/
def Obligations.ArmCmdSendsRead : Prop :=
  ∀ s : State, s.cfg.spiByteCycles.toNat ≤ s.wcnt.toNat + 1 → s.csN = false → s.ee.mode = .cmd →
    ∃ t, exec .armCmd s = .next t ∧
      t = { edgeFrame s t with
        wcnt := 0, seq := 0x03#5, draws := s.draws + 1, ee := { s.ee with mode := .addr 0 } }

/-- ARM_ADDR2, ARM_ADDR1 and ARM_ADDR0 at their last edge: the three address bytes, most significant first; with the first
two in the device's buffer the third makes `ee_ptr = addr` in DATA mode (R79, R80, R81, R46). -/
def Obligations.AddressBytesReachDevice : Prop :=
  ∀ s : State, s.cfg.spiByteCycles.toNat ≤ s.wcnt.toNat + 1 → s.csN = false →
    (s.ee.mode = .addr 0 → ∃ t, exec .armAddr2 s = .next t ∧
      t = { edgeFrame s t with
        wcnt := 0, seq := 0x04#5, draws := s.draws + 1
        ee := { s.ee with abuf0 := BitVec.ofNat 8 (s.addr.toNat / 65536), mode := .addr 1 } }) ∧
    (s.ee.mode = .addr 1 → ∃ t, exec .armAddr1 s = .next t ∧
      t = { edgeFrame s t with
        wcnt := 0, seq := 0x05#5, draws := s.draws + 1
        ee := { s.ee with abuf1 := BitVec.ofNat 8 (s.addr.toNat / 256), mode := .addr 2 } }) ∧
    (s.ee.mode = .addr 2 → ∃ t, exec .armAddr0 s = .next t ∧
      t = { edgeFrame s t with
        wcnt := 0, seq := 0x06#5, draws := s.draws + 1
        ee := { s.ee with
          abuf2 := BitVec.ofNat 8 s.addr.toNat, mode := .data
          ptr := BitVec.ofNat 24 (s.ee.abuf0.toNat * 65536 + s.ee.abuf1.toNat * 256 + s.addr.toNat % 256) } } ∧
      (s.ee.abuf0 = BitVec.ofNat 8 (s.addr.toNat / 65536) → s.ee.abuf1 = BitVec.ofNat 8 (s.addr.toNat / 256) →
        t.ee.ptr = s.addr))

/-- The frame of the five byte states at their last edge, whatever the device's mode: only `wcnt`, `seq`, for S_FETCH
`sample`, and the device's transaction registers may change; with chip-select high the device sees nothing (R44, R56,
R78 to R81, R84). -/
def Obligations.ByteStatesFrame : Prop :=
  ∀ i ∈ [Instr.armCmd, .armAddr2, .armAddr1, .armAddr0, .sFetch], ∀ s : State,
    s.cfg.spiByteCycles.toNat ≤ s.wcnt.toNat + 1 →
    ∃ t, exec i s = .next t ∧
      t = { edgeFrame s t with wcnt := 0, seq := t.seq, sample := t.sample, draws := t.draws, ee := t.ee } ∧
      (i ≠ .sFetch → t.sample = s.sample) ∧
      t.ee.mem = s.ee.mem ∧ t.ee.program = s.ee.program ∧ t.ee.writeEnabled = s.ee.writeEnabled ∧
      (s.csN = true → t.ee = s.ee)

/-- ARM_START: both counters cleared and started, the flag cleared, the cursor and the LED ramp initialised; `led_out`
kept (R82, R70). -/
def Obligations.ArmStartStartsSession : Prop :=
  ∀ s : State, ∃ t, exec .armStart s = .next t ∧
    (∀ h : s.trackIdx.toNat < 5, t.rem = s.cfg.tracks[s.trackIdx.toNat].length) ∧
    t.cntP = 0 ∧ t.cntS = 0 ∧ t.ovf = false ∧ t.cmpAct = s.cmpBuf ∧
    t = { edgeFrame s t with
      perP := 256, perS := BitVec.ofNat 16 s.cfg.samplePeriod, rem := t.rem
      ledStep := 0, ledDir := .rising, ledTick := 0, seq := 0x07#5 }

/-- S_CHECK: out of samples goes to D_STOP, else to S_FETCH (R83). -/
def Obligations.CheckTestsRemaining : Prop :=
  ∀ s : State, ∃ t, exec .sCheck s = .next t ∧
    t = { edgeFrame s t with seq := if s.rem = 0 then 0x0C#5 else 0x08#5 }

/-- S_FETCH at its last edge, with the READ streaming from an idle device: the byte at `ee_ptr`, which advances; beyond
the array the byte is a free one (R84, R45, R46; log entry 7). -/
def Obligations.FetchReadsSample : Prop :=
  ∀ s : State, s.cfg.spiByteCycles.toNat ≤ s.wcnt.toNat + 1 → s.csN = false → s.ee.mode = .data → s.ee.program = [] →
    ∃ t, exec .sFetch s = .next t ∧
      t = { edgeFrame s t with
        wcnt := 0, seq := 0x09#5
        sample := if s.ee.ptr.toNat < s.cfg.eeSize then Memory.read s.ee.mem s.ee.ptr.toNat
          else Config.freeByte s.draws
        draws := if s.ee.ptr.toNat < s.cfg.eeSize then s.draws else s.draws + 1
        ee := { s.ee with ptr := BitVec.ofNat 24 (s.ee.ptr.toNat + 1) } }

/-- S_DUTY: the sample goes to the duty register; a wrap at the same edge latches the old value; no other state writes that
register (R85). -/
def Obligations.DutyWritesCompareBuffer : Prop :=
  ∀ s : State, ∃ t, exec .sDuty s = .next t ∧
    t = { edgeFrame s t with cmpBuf := s.sample, seq := 0x0A#5 } ∧
    (s.wrapNow → t.cmpAct = s.cmpBuf) ∧
    ∀ q : SeqCode, q ≠ 0x09#5 → ∃ u, exec (decodeSeq q) s = .next u ∧ u.cmpBuf = s.cmpBuf

/-- S_LED: the ramp's three registers and the LED output of the new step (R86, R98, R99). -/
def Obligations.LedRampAndOutput : Prop :=
  ∀ s : State, ∃ t, exec .sLed s = .next t ∧
    t = { edgeFrame s t with
      seq := 0x0B#5, ledTick := t.ledTick, ledStep := t.ledStep, ledDir := t.ledDir, ledOut := t.ledOut } ∧
    (s.ledTick.toNat + 1 ≠ s.cfg.ledStepTime →
      t.ledTick = s.ledTick + 1 ∧ t.ledStep = s.ledStep ∧ t.ledDir = s.ledDir) ∧
    (s.ledTick.toNat + 1 = s.cfg.ledStepTime → t.ledTick = 0 ∧
      (s.ledDir = .rising → t.ledStep = s.ledStep + 1 ∧
        t.ledDir = if s.ledStep.toNat + 1 = s.cfg.steps then .falling else .rising) ∧
      (s.ledDir = .falling → t.ledStep = s.ledStep - 1 ∧
        t.ledDir = if s.ledStep.toNat = 1 then .rising else .falling)) ∧
    (t.ledOut = true ↔ s.rem.toNat % s.cfg.steps < t.ledStep.toNat)

/-- S_WAIT: with the flag set, one sample is counted off and the loop goes on; else it waits (R87). -/
def Obligations.WaitConsumesTick : Prop :=
  ∀ s : State, ∃ t, exec .sWait s = .next t ∧
    (s.ovf = true → t = { edgeFrame s t with rem := s.rem - 1, seq := 0x07#5 } ∧ (t.ovf = true ↔ s.tickNow)) ∧
    (s.ovf = false → t = { edgeFrame s t with seq := 0x0B#5 })

/-- D_STOP: both periods are 0 after the edge; the counters still advance at it, as R64 and R65 say, and an event sets `ovf`;
`pwm_out` is 0. From the next edge on, until an ARM_START, the counters hold, `pwm_out` stays 0, `ovf` stays as it is, and
nothing else depends on it; S_WAIT, which alone reads it, is excluded, because no run is there with the counters stopped (I4)
(R88, R71). -/
def Obligations.StopHaltsCounters : Prop :=
  ∀ s : State, ∃ t, exec .dStop s = .next t ∧
    t = { edgeFrame s t with perP := 0, perS := 0, seq := 0x0D#5 } ∧ t.pwmOut = false ∧
    t.cntP = (if s.perP = 0 then s.cntP else BitVec.ofNat 8 ((s.cntP.toNat + 1) % s.perP.toNat)) ∧
    t.cntS = (if s.perS = 0 then s.cntS else BitVec.ofNat 16 ((s.cntS.toNat + 1) % s.perS.toNat)) ∧
    (s.tickNow → t.ovf = true) ∧ (¬ s.tickNow → t.ovf = s.ovf) ∧
    ∀ (q : SeqCode) (u : State), q ≠ 0x06#5 → u.perP = 0 → u.perS = 0 →
      ∃ v, exec (decodeSeq q) u = .next v ∧ v.perP = 0 ∧ v.perS = 0 ∧ v.cntP = u.cntP ∧ v.cntS = u.cntS ∧
        v.pwmOut = false ∧
        (q ≠ 0x0B#5 → v.ovf = u.ovf ∧ ∀ b, exec (decodeSeq q) { u with ovf := b } = .next { v with ovf := b })

/-- D_CSOFF: chip-select rises, and the EEPROM leaves the transaction (R89, R44). -/
def Obligations.CsoffClosesTransaction : Prop :=
  ∀ s : State, ∃ t, exec .dCsoff s = .next t ∧
    t = { edgeFrame s t with
      csN := true, seq := 0x0E#5, ee := { s.ee with mode := if s.csN = false then .off else s.ee.mode } }

/-- D_LEDON: the LED is on (R90). -/
def Obligations.LedonForcesLed : Prop :=
  ∀ s : State, ∃ t, exec .dLedon s = .next t ∧ t = { edgeFrame s t with ledOut := true, seq := 0x0F#5 }

/-- D_ADVANCE: the next track modulo 5 (R91). -/
def Obligations.AdvanceWrapsTrack : Prop :=
  ∀ s : State, ∃ t, exec .dAdvance s = .next t ∧
    t.trackIdx.toNat = (s.trackIdx.toNat + 1) % 5 ∧
    t = { edgeFrame s t with trackIdx := t.trackIdx, wcnt := 0, seq := 0x10#5 }

/-- D_SETTLE at its last edge: back to IDLE, nothing else (R92). -/
def Obligations.SettleReturnsToIdle : Prop :=
  ∀ s : State, s.cfg.settleCycles.toNat ≤ s.wcnt.toNat + 1 →
    ∃ t, exec .dSettle s = .next t ∧ t = { edgeFrame s t with wcnt := 0, seq := 0x00#5 }

/-- The fifteen illegal codes go to IDLE and write nothing else (R93). -/
def Obligations.IllegalCodesRecover : Prop :=
  ∀ i ∈ [Instr.illegal11, .illegal12, .illegal13, .illegal14, .illegal15, .illegal16, .illegal17, .illegal18,
      .illegal19, .illegal1A, .illegal1B, .illegal1C, .illegal1D, .illegal1E, .illegal1F],
    ∀ s : State, ∃ t, exec i s = .next t ∧ t = { edgeFrame s t with seq := 0x00#5 }

/-- The EEPROM takes one byte by its mode (R46); in OFF it ignores the bus (R44). -/
def Obligations.DeviceTakesByteByMode : Prop :=
  ∀ (tx : Byte) (s : State),
    (s.ee.mode ≠ .data → (eeByte tx s).1 = Config.freeByte s.draws ∧ (eeByte tx s).2.draws = s.draws + 1) ∧
    (s.ee.mode = .off ∨ s.ee.mode = .other → (eeByte tx s).2.ee = s.ee) ∧
    (s.ee.mode = .cmd → (eeByte tx s).2.ee = { s.ee with mode := if tx = 0x03#8 then .addr 0 else .other }) ∧
    (s.ee.mode = .addr 0 → (eeByte tx s).2.ee = { s.ee with abuf0 := tx, mode := .addr 1 }) ∧
    (s.ee.mode = .addr 1 → (eeByte tx s).2.ee = { s.ee with abuf1 := tx, mode := .addr 2 }) ∧
    (s.ee.mode = .addr 2 → (eeByte tx s).2.ee = { s.ee with
      abuf2 := tx, mode := .data
      ptr := BitVec.ofNat 24 (s.ee.abuf0.toNat * 65536 + s.ee.abuf1.toNat * 256 + tx.toNat) }) ∧
    (s.ee.mode = .data → eeByte tx s =
      ((memRead s.ee.ptr s).1,
        { (memRead s.ee.ptr s).2 with ee := { s.ee with ptr := BitVec.ofNat 24 (s.ee.ptr.toNat + 1) } }))

/-- READ by the programmer, from an idle device and inside the array: after four bytes it discards, the `count` bytes from
the start address; the pointer ends behind them; no byte of the array changes (R59, R46). -/
def Obligations.ReadCommandReturnsBytes : Prop :=
  ∀ (s : State) (start : EeAddr) (count : Nat), s.ee.program = [] → start.toNat + count ≤ s.cfg.eeSize →
    s.cfg.eeSize ≤ 2 ^ 24 →
    ∃ t, exec (.read start count) s = .next t ∧ t = resetFrame s t ∧
      t.busRx.length = 4 + count ∧
      t.busRx.drop 4 = (List.range count).map (fun k => Memory.read s.ee.mem (start.toNat + k)) ∧
      t.ee = { s.ee with
        mode := .off, ptr := BitVec.ofNat 24 (start.toNat + count)
        abuf0 := BitVec.ofNat 8 (start.toNat / 65536), abuf1 := BitVec.ofNat 8 (start.toNat / 256)
        abuf2 := BitVec.ofNat 8 start.toNat }

/-- READ, WREN, RDSR and RDID complete in every state, each at one edge with `rst = 1` (log entry 8), on a busy device too
(log entry 15): the block is reset at that edge, the device ends in OFF, and the array and a running program cycle are as the
reset edge leaves them, so as they were unless the cycle completes at it (log entries 17, 19). READ writes the address buffer
and leaves the pointer behind the bytes it sent out; the others write neither; WREN writes the write enable (R59, R60, R62, R63,
R44, R46). -/
def Obligations.CommandsFrame : Prop :=
  ∀ (s : State) (start : EeAddr) (n : Nat), ∀ i ∈ [Instr.read start n, .wren, .rdsr n, .rdid],
    ∃ t, exec i s = .next t ∧ t = resetFrame s t ∧ t.ee.mode = .off ∧
      t.ee.mem = (resetEdge s).ee.mem ∧ t.ee.program = (resetEdge s).ee.program ∧
      (s.held.progDone = false → t.ee.mem = s.ee.mem ∧ t.ee.program = s.ee.program) ∧
      (i ≠ .wren → t.ee.writeEnabled = s.ee.writeEnabled) ∧
      (i ≠ .read start n → t.ee = { (resetEdge s).ee with writeEnabled := t.ee.writeEnabled }) ∧
      (i = .read start n → t.ee = { (resetEdge s).ee with
        ptr := start + BitVec.ofNat 24 n
        abuf0 := BitVec.ofNat 8 (start.toNat / 65536), abuf1 := BitVec.ofNat 8 (start.toNat / 256)
        abuf2 := BitVec.ofNat 8 start.toNat })

/-- WREN enables the next program operation (R60), on a busy device too, which is the model's choice (log entry 15); its one
byte returns a free byte (log entries 7, 8). -/
def Obligations.WrenEnablesProgram : Prop :=
  ∀ s : State, ∃ t, exec .wren s = .next t ∧ t.ee.writeEnabled = true ∧ t.busRx = [Config.freeByte s.draws]

/-- RDSR: every byte after the command has WIP in bit 0; its other bits are the draw's (R62; log entry 7). That all bytes of one
transaction show one WIP, already 0 when the cycle completes at that edge, is the model's choice (log entries 8, 17). -/
def Obligations.RdsrReturnsStatus : Prop :=
  ∀ (s : State) (count : Nat), ∃ t, exec (.rdsr count) s = .next t ∧
    t.busRx.length = count + 1 ∧
    ∀ k, k < count → ∃ b, t.busRx[k + 1]? = some b ∧
      (b.getLsbD 0 = true ↔ s.ee.program ≠ [] ∧ s.held.progDone = false) ∧
      ∀ j, 1 ≤ j → b.getLsbD j = (Config.freeByte (s.draws + 1 + k)).getLsbD j

/-- RDID returns three bytes, each a free one (R63; log entries 7, 8). -/
def Obligations.RdidReturnsThreeDraws : Prop :=
  ∀ s : State, ∃ t, exec .rdid s = .next t ∧
    t.busRx.drop 1 = [Config.freeByte (s.draws + 1), Config.freeByte (s.draws + 2), Config.freeByte (s.draws + 3)]

/-- PP after a WREN, inside one page: the device is busy with exactly the bytes sent, also where they lie beyond the array, and
no byte has changed yet (R61). That the write enable is used up is the model's reading of R60 (log entry 16, DEDUCED), and one
transaction at one edge its choice (log entry 8). -/
def Obligations.PpStartsProgramCycle : Prop :=
  ∀ (s : State) (start : EeAddr) (data : List Byte), (Instr.pp start data).wf = true →
    start.toNat / 128 = (start.toNat + data.length - 1) / 128 → s.ee.writeEnabled = true → s.ee.program = [] →
    ∃ t, exec (.pp start data) s = .next t ∧ t = resetFrame s t ∧ t.ee.mode = .off ∧
      t.ee.mem = s.ee.mem ∧ t.ee.writeEnabled = false ∧
      t.ee.program.length = data.length ∧
      ∀ k (h : k < data.length), t.ee.program[k]? = some (start.toNat + k, data[k])

/-- The page program's effect: the edge at which the device completes the cycle has written the bytes that lie in the array,
and every other address reads as before (R61). That the cycle completes at one edge with `rst = 1`, at which all its bytes are
written, is the model's choice (log entries 8, 17), and so is that bytes beyond the array go nowhere (log entry 12). -/
def Obligations.PpProgramsTheArray : Prop :=
  ∀ (s : State) (start : EeAddr) (data : List Byte), s.cfg.failing = none → s.ee.mem.wf = true →
    (Instr.pp start data).wf = true → start.toNat / 128 = (start.toNat + data.length - 1) / 128 →
    s.ee.writeEnabled = true → s.ee.program = [] →
    ∃ t u, exec (.pp start data) s = .next t ∧
      step { t with stim := { btn := true, reset := some { progDone := true } } :: t.stim } = .next u ∧
      u.ee.program = [] ∧
      (∀ k (h : k < data.length), start.toNat + k < s.cfg.eeSize → Memory.read u.ee.mem (start.toNat + k) = data[k]) ∧
      (∀ a, a < start.toNat ∨ start.toNat + data.length ≤ a ∨ s.cfg.eeSize ≤ a →
        Memory.read u.ee.mem a = Memory.read s.ee.mem a)

/-- The frame of PP in every case (without WREN, across a page, on a busy device, beyond the array too): its edge changes no
byte of the array beyond what the reset edge does, what the cycle will write lies in the pages of the addressed bytes, and at the
edge that completes the cycle no address outside the array and outside the pending cells changes (R61, K12; log entries 8, 12,
17). That the write enable is clear in every case is log entry 16. -/
def Obligations.PpStaysInItsPages : Prop :=
  ∀ (s : State) (start : EeAddr) (data : List Byte), (Instr.pp start data).wf = true →
    ∃ t, exec (.pp start data) s = .next t ∧ t = resetFrame s t ∧ t.ee.mode = .off ∧
      t.ee.mem = (resetEdge s).ee.mem ∧ t.ee.writeEnabled = false ∧
      (∀ c ∈ t.ee.program, c ∈ (resetEdge s).ee.program ∨
        ∃ a, c.1 = a % 2 ^ 24 ∧ start.toNat / 128 ≤ a / 128 ∧ a / 128 ≤ (start.toNat + data.length - 1) / 128) ∧
      (s.cfg.failing = none → ∃ u,
        step { t with stim := { btn := true, reset := some { progDone := true } } :: t.stim } = .next u ∧
        ∀ a, s.cfg.eeSize ≤ a ∨ (∀ c ∈ t.ee.program, c.1 ≠ a) → Memory.read u.ee.mem a = Memory.read t.ee.mem a)

/-- A transaction that is no row of the table completes at an edge with `rst = 1` (R51, R46; log entries 8, 14): one answer for
each byte, and the device as the reset edge leaves it, but for what the bytes reach. One that begins with the byte of READ,
which is one cut short in its address, leaves in the buffer the address bytes it had. One that begins with the byte of WREN or
PP leaves the write enable at a free bit, and one of PP, if it has data, may make the device busy with the pages of the
addressed bytes (log entries 12, 13). A PP term outside R50's form runs as its frame does. -/
def Obligations.OffTableFramesRun : Prop :=
  (∀ (s : State) held bytes e, s.cfg.failing = none → s.inputs.reset = some held → held.frame = some bytes →
    decodeFrame bytes = .error e →
    ∃ t, step s = .next t ∧ t = resetFrame s t ∧ t.ee.mode = .off ∧ t.busRx.length = bytes.length ∧
      t.ee = { (resetEdge s).ee with
        program := t.ee.program, writeEnabled := t.ee.writeEnabled
        abuf0 := if bytes.headD 0 = 0x03#8 then bytes.getD 1 s.ee.abuf0 else s.ee.abuf0
        abuf1 := if bytes.headD 0 = 0x03#8 then bytes.getD 2 s.ee.abuf1 else s.ee.abuf1 } ∧
      (bytes.headD 0 ≠ 0x02#8 ∨ bytes.length < 5 → t.ee.program = (resetEdge s).ee.program) ∧
      (bytes.headD 0 ≠ 0x06#8 → bytes.headD 0 ≠ 0x02#8 → t.ee.writeEnabled = s.ee.writeEnabled) ∧
      (bytes.headD 0 = 0x06#8 ∨ bytes.headD 0 = 0x02#8 →
        t.ee.writeEnabled = (Config.freeByte (s.draws + bytes.length)).getLsbD 0) ∧
      ∀ a2 a1 a0 data, bytes = 0x02#8 :: a2 :: a1 :: a0 :: data →
        ∀ c ∈ t.ee.program, c ∈ (resetEdge s).ee.program ∨
          ∃ a, c.1 = a % 2 ^ 24 ∧ (joinAddr a2 a1 a0).toNat / 128 ≤ a / 128 ∧
            a / 128 ≤ ((joinAddr a2 a1 a0).toNat + data.length - 1) / 128 ∧ data ≠ []) ∧
  ∀ (s : State) (start : EeAddr) (data : List Byte), (Instr.pp start data).wf = false →
    exec (.pp start data) s = .next (rawFrame (frameBytes (.pp start data)) s)

/-- The port `phase` for every code (R16). -/
def Obligations.PhaseFollowsCode : Prop :=
  ∀ s : State,
    s.phase = if s.seq.toNat = 0 then 0b00#2 else if s.seq.toNat ≤ 0x06 then 0b01#2 else if s.seq.toNat ≤ 0x0B then 0b10#2
      else if s.seq.toNat ≤ 0x10 then 0b11#2 else 0b00#2

/-- The PWM output: high exactly while the carrier runs below `cmp_act`, so for `cmp_act` of the 256 counts (R69). -/
def Obligations.PwmHighForDutyCounts : Prop :=
  ∀ s : State,
    (s.pwmOut = true ↔ s.perP ≠ 0 ∧ s.cntP.toNat < s.cmpAct.toNat) ∧
    (s.perP ≠ 0 →
      ((List.range 256).filter fun c => State.pwmOut { s with cntP := BitVec.ofNat 8 c }).length = s.cmpAct.toNat)

/-- The LED step is a triangle wave, the spec's own inference (R101), from R82 and R98: after `j` ramp updates from ARM_START's
values; and every step, of whatever state rule, keeps `led_step`, `led_tick` and `led_dir` where the triangle puts them after
the samples of the session so far. -/
def Obligations.LedStepIsTriangle : Prop :=
  (∀ (s : State) (j : Nat), 1 ≤ s.cfg.steps → s.cfg.steps ≤ 65535 → 1 ≤ s.cfg.ledStepTime →
    s.cfg.ledStepTime ≤ 65535 → s.ledStep = 0 → s.ledDir = .rising → s.ledTick = 0 →
    (ledRampTimes j s).ledStep.toNat = triangle s.cfg.steps (j / s.cfg.ledStepTime)) ∧
  ∀ s t : State, s.Inv → s.OnRamp → step s = .next t → t.OnRamp

/-- Over `STEPS` consecutive values of `rem` at one step value, the LED is on for exactly that many samples: the spec's own
inference (R102), from R99. -/
def Obligations.LedOnForStepSamples : Prop :=
  ∀ (s : State) (r : Nat), 1 ≤ s.cfg.steps → s.ledStep.toNat ≤ s.cfg.steps → r + s.cfg.steps ≤ 2 ^ 24 →
    ((List.range s.cfg.steps).filter fun k =>
      (ledOutput { s with rem := BitVec.ofNat 24 (r + k) }).ledOut).length = s.ledStep.toNat

/-- D_SETTLE lasts exactly `SETTLE_CYCLES` edges while `rst` stays 0 (R92, R75). -/
def Obligations.SettleLastsSettleCycles : Prop :=
  ∀ s : State, s.cfg.failing = none → s.ee.program = [] → s.imageProgrammed = true → s.seq = 0x10#5 → s.wcnt = 0 →
    s.cfg.settleCycles.toNat ≤ s.stim.length → (∀ x ∈ s.stim.take s.cfg.settleCycles.toNat, x.reset = none) →
    (∀ k, k < s.cfg.settleCycles.toNat →
      ∃ u, Host.Core.run ⟨State, Fault, Refusal, step, State.reset⟩ k s = .next u ∧ u.seq = 0x10#5) ∧
    ∃ t, Host.Core.run ⟨State, Fault, Refusal, step, State.reset⟩ s.cfg.settleCycles.toNat s = .next t ∧
      t.seq = 0x00#5 ∧ t.wcnt = 0
end

