-- ==== Sys2Proof/Laws/Decode.lean ====
section
/-! SUPPORT. Laws of the decoder's parts. -/

namespace Sys2Proof

/-- The address bytes put together again are the address (R46, R54). -/
theorem joinAddr_bytes (a : EeAddr) :
    joinAddr (a.extractLsb' 16 8) (a.extractLsb' 8 8) (a.extractLsb' 0 8) = a := by
  apply BitVec.eq_of_getLsbD_eq
  intro i hi
  simp only [joinAddr, BitVec.getLsbD_append, BitVec.getLsbD_extractLsb']
  by_cases h0 : i < 8
  · simp [h0]
  · by_cases h1 : i < 16
    · have e1 : i - 8 < 8 := by omega
      have e2 : 8 + (i - 8) = i := by omega
      simp [h0, e1, e2]
    · have e1 : ¬ i - 8 < 8 := by omega
      have e2 : i - 8 - 8 < 8 := by omega
      have e3 : 16 + (i - 8 - 8) = i := by omega
      simp [h0, e1, e2, e3]

/-- Every code of `seq` encodes the instruction it decodes to. -/
theorem encode_decodeSeq (c : SeqCode) : encode (decodeSeq c) = .code c := by
  revert c
  decide

end Sys2Proof
end

