-- ==== Sys2Proof/Laws/Memory.lean ====
section
/-! SUPPORT. The laws of the EEPROM array: read after write, writes elsewhere, and the canonical form kept. -/

namespace Sys2Proof.Machine

@[simp] theorem Memory.read_nil (a : Nat) : Memory.read [] a = Memory.erased := rfl

theorem Memory.read_put_same {a : Nat} {b : Byte} {rest : Memory} (h : Memory.read rest a = Memory.erased) :
    Memory.read (Memory.put a b rest) a = b := by
  unfold Memory.put
  split
  · simp_all
  · simp [Memory.read]

theorem Memory.read_put_other {a c : Nat} (b : Byte) (rest : Memory) (h : c ≠ a) :
    Memory.read (Memory.put a b rest) c = Memory.read rest c := by
  unfold Memory.put
  split <;> simp [Memory.read, h]

theorem Memory.above_cons {a a' : Nat} {b : Byte} {rest : Memory} :
    Memory.above a ((a', b) :: rest) = true ↔ a < a' ∧ Memory.above a rest = true := by
  simp [Memory.above]

theorem Memory.above_of_le {a a' : Nat} {m : Memory} (h : a ≤ a') (hm : Memory.above a' m = true) :
    Memory.above a m = true := by
  simp only [Memory.above, List.all_eq_true, decide_eq_true_eq] at *
  exact fun c hc => Nat.lt_of_le_of_lt h (hm c hc)

/-- Nothing is listed at or below a bound that lies below the list. -/
theorem Memory.read_of_above {a c : Nat} {m : Memory} (hm : Memory.above a m = true) (h : c ≤ a) :
    Memory.read m c = Memory.erased := by
  induction m with
  | nil => rfl
  | cons x rest ih =>
    obtain ⟨a', b'⟩ := x
    obtain ⟨h1, h2⟩ := Memory.above_cons.1 hm
    have hne : c ≠ a' := by omega
    simp [Memory.read, hne, ih h2]

theorem Memory.wf_cons {a : Nat} {b : Byte} {rest : Memory} :
    Memory.wf ((a, b) :: rest) = true ↔ b ≠ Memory.erased ∧ Memory.above a rest = true ∧ Memory.wf rest = true := by
  simp [Memory.wf, and_assoc]

/-- A write leaves every other address alone. -/
theorem Memory.read_write_other {m : Memory} {a c : Nat} (b : Byte) (h : c ≠ a) :
    Memory.read (Memory.write m a b) c = Memory.read m c := by
  induction m with
  | nil => simp [Memory.write, Memory.read_put_other b [] h]
  | cons x rest ih =>
    obtain ⟨a', b'⟩ := x
    simp only [Memory.write]
    split
    · exact Memory.read_put_other b _ h
    · split
      · next _ h2 =>
        subst h2
        simp [Memory.read_put_other b rest h, Memory.read, h]
      · simp only [Memory.read]
        split <;> simp_all

/-- A read after a write to the same address gives the byte written. -/
theorem Memory.read_write_same {m : Memory} (a : Nat) (b : Byte) (hm : m.wf = true) :
    Memory.read (Memory.write m a b) a = b := by
  induction m with
  | nil => exact Memory.read_put_same rfl
  | cons x rest ih =>
    obtain ⟨a', b'⟩ := x
    obtain ⟨hb, habove, hwf⟩ := Memory.wf_cons.1 hm
    simp only [Memory.write]
    split
    · next hlt =>
      exact Memory.read_put_same
        (Memory.read_of_above (a := a) (Memory.above_cons.2 ⟨hlt, Memory.above_of_le (by omega) habove⟩) (Nat.le_refl a))
    · split
      · next _ h2 =>
        subst h2
        exact Memory.read_put_same (Memory.read_of_above habove (Nat.le_refl a))
      · next _ h2 => simp [Memory.read, h2, ih hwf]

theorem Memory.above_put {a c : Nat} {b : Byte} {rest : Memory} (hc : c < a) (h : Memory.above c rest = true) :
    Memory.above c (Memory.put a b rest) = true := by
  unfold Memory.put
  split
  · exact h
  · exact Memory.above_cons.2 ⟨hc, h⟩

theorem Memory.above_write {m : Memory} {a c : Nat} (b : Byte) (hc : c < a) (h : Memory.above c m = true) :
    Memory.above c (Memory.write m a b) = true := by
  induction m with
  | nil => exact Memory.above_put hc h
  | cons x rest ih =>
    obtain ⟨a', b'⟩ := x
    obtain ⟨h1, h2⟩ := Memory.above_cons.1 h
    simp only [Memory.write]
    split
    · exact Memory.above_put hc h
    · split
      · exact Memory.above_put hc h2
      · exact Memory.above_cons.2 ⟨h1, ih h2⟩

theorem Memory.wf_put {a : Nat} {b : Byte} {rest : Memory} (h : Memory.above a rest = true) (hwf : rest.wf = true) :
    (Memory.put a b rest).wf = true := by
  unfold Memory.put
  split
  · exact hwf
  · next hb => exact Memory.wf_cons.2 ⟨hb, h, hwf⟩

/-- A write keeps the canonical form. -/
theorem Memory.wf_write {m : Memory} (a : Nat) (b : Byte) (hm : m.wf = true) : (Memory.write m a b).wf = true := by
  induction m with
  | nil => exact Memory.wf_put rfl rfl
  | cons x rest ih =>
    obtain ⟨a', b'⟩ := x
    obtain ⟨hb, habove, hwf⟩ := Memory.wf_cons.1 hm
    simp only [Memory.write]
    split
    · next hlt => exact Memory.wf_put (Memory.above_cons.2 ⟨hlt, Memory.above_of_le (by omega) habove⟩) hm
    · split
      · next _ h2 => subst h2; exact Memory.wf_put habove hwf
      · next h1 h2 => exact Memory.wf_cons.2 ⟨hb, Memory.above_write b (by omega) habove, ih hwf⟩

/-- So does a list of writes. -/
theorem Memory.wf_writeAll {m : Memory} (cells : List Host.Cell) (hm : m.wf = true) :
    (Memory.writeAll m cells).wf = true := by
  induction cells generalizing m with
  | nil => exact hm
  | cons x rest ih => exact ih (Memory.wf_write x.1 x.2 hm)

/-- A list of writes leaves every address it does not name alone. -/
theorem Memory.read_writeAll_other {m : Memory} {cells : List Host.Cell} {c : Nat} (h : ∀ x ∈ cells, x.1 ≠ c) :
    Memory.read (Memory.writeAll m cells) c = Memory.read m c := by
  induction cells generalizing m with
  | nil => rfl
  | cons x rest ih =>
    rw [show Memory.writeAll m (x :: rest) = Memory.writeAll (Memory.write m x.1 x.2) rest from rfl,
      ih (fun y hy => h y (List.mem_cons_of_mem _ hy)),
      Memory.read_write_other x.2 (h x List.mem_cons_self).symm]

/-- The array of `State.reset` is in the canonical form. -/
theorem Memory.wf_reset : State.reset.ee.mem.wf = true := rfl

end Sys2Proof.Machine
end

