-- ==== Sys2Proof/Laws/State.lean ====
section
/-! SUPPORT. What each named update of State leaves in each field, by rfl, so that no later proof unfolds an update. -/

namespace Sys2Proof.Machine

@[simp] theorem clockEdge_cfg (q : SeqCode) (s : State) : (clockEdge q s).cfg = s.cfg := rfl
@[simp] theorem clockEdge_seq (q : SeqCode) (s : State) : (clockEdge q s).seq = s.seq := rfl
@[simp] theorem clockEdge_wcnt (q : SeqCode) (s : State) : (clockEdge q s).wcnt = s.wcnt := rfl
@[simp] theorem clockEdge_trackIdx (q : SeqCode) (s : State) : (clockEdge q s).trackIdx = s.trackIdx := rfl
@[simp] theorem clockEdge_addr (q : SeqCode) (s : State) : (clockEdge q s).addr = s.addr := rfl
@[simp] theorem clockEdge_rem (q : SeqCode) (s : State) : (clockEdge q s).rem = s.rem := rfl
@[simp] theorem clockEdge_sample (q : SeqCode) (s : State) : (clockEdge q s).sample = s.sample := rfl
@[simp] theorem clockEdge_cmpBuf (q : SeqCode) (s : State) : (clockEdge q s).cmpBuf = s.cmpBuf := rfl
@[simp] theorem clockEdge_cmpAct (q : SeqCode) (s : State) : (clockEdge q s).cmpAct = nextCmpAct s := rfl
@[simp] theorem clockEdge_cntP (q : SeqCode) (s : State) : (clockEdge q s).cntP = nextCntP s := rfl
@[simp] theorem clockEdge_perP (q : SeqCode) (s : State) : (clockEdge q s).perP = s.perP := rfl
@[simp] theorem clockEdge_cntS (q : SeqCode) (s : State) : (clockEdge q s).cntS = nextCntS s := rfl
@[simp] theorem clockEdge_perS (q : SeqCode) (s : State) : (clockEdge q s).perS = s.perS := rfl
@[simp] theorem clockEdge_ovf (q : SeqCode) (s : State) : (clockEdge q s).ovf = nextOvf q s := rfl
@[simp] theorem clockEdge_ledStep (q : SeqCode) (s : State) : (clockEdge q s).ledStep = s.ledStep := rfl
@[simp] theorem clockEdge_ledDir (q : SeqCode) (s : State) : (clockEdge q s).ledDir = s.ledDir := rfl
@[simp] theorem clockEdge_ledTick (q : SeqCode) (s : State) : (clockEdge q s).ledTick = s.ledTick := rfl
@[simp] theorem clockEdge_ledOut (q : SeqCode) (s : State) : (clockEdge q s).ledOut = s.ledOut := rfl
@[simp] theorem clockEdge_csN (q : SeqCode) (s : State) : (clockEdge q s).csN = s.csN := rfl
@[simp] theorem clockEdge_trigQ (q : SeqCode) (s : State) : (clockEdge q s).trigQ = s.btn := rfl
@[simp] theorem clockEdge_trigPend (q : SeqCode) (s : State) : (clockEdge q s).trigPend = nextTrigPend s := rfl
@[simp] theorem clockEdge_faultLate (q : SeqCode) (s : State) : (clockEdge q s).faultLate = (s.faultLate || lateEvent q s) := rfl
@[simp] theorem clockEdge_faultOvr (q : SeqCode) (s : State) : (clockEdge q s).faultOvr = (s.faultOvr || ovrEvent q s) := rfl
@[simp] theorem clockEdge_ee (q : SeqCode) (s : State) : (clockEdge q s).ee = s.ee := rfl
@[simp] theorem clockEdge_busRx (q : SeqCode) (s : State) : (clockEdge q s).busRx = s.busRx := rfl
@[simp] theorem clockEdge_stim (q : SeqCode) (s : State) : (clockEdge q s).stim = s.stim.tail := rfl
@[simp] theorem clockEdge_edge (q : SeqCode) (s : State) : (clockEdge q s).edge = s.edge + 1 := rfl
@[simp] theorem clockEdge_draws (q : SeqCode) (s : State) : (clockEdge q s).draws = s.draws := rfl
@[simp] theorem clockEdge_imageProgrammed (q : SeqCode) (s : State) : (clockEdge q s).imageProgrammed = s.imageProgrammed :=
  rfl

@[simp] theorem resetEdge_cfg (s : State) : (resetEdge s).cfg = s.cfg := rfl
@[simp] theorem resetEdge_seq (s : State) : (resetEdge s).seq = State.reset.seq := rfl
@[simp] theorem resetEdge_wcnt (s : State) : (resetEdge s).wcnt = State.reset.wcnt := rfl
@[simp] theorem resetEdge_trackIdx (s : State) : (resetEdge s).trackIdx = State.reset.trackIdx := rfl
@[simp] theorem resetEdge_addr (s : State) : (resetEdge s).addr = State.reset.addr := rfl
@[simp] theorem resetEdge_rem (s : State) : (resetEdge s).rem = State.reset.rem := rfl
@[simp] theorem resetEdge_sample (s : State) : (resetEdge s).sample = State.reset.sample := rfl
@[simp] theorem resetEdge_cmpBuf (s : State) : (resetEdge s).cmpBuf = State.reset.cmpBuf := rfl
@[simp] theorem resetEdge_cmpAct (s : State) : (resetEdge s).cmpAct = State.reset.cmpAct := rfl
@[simp] theorem resetEdge_cntP (s : State) : (resetEdge s).cntP = State.reset.cntP := rfl
@[simp] theorem resetEdge_perP (s : State) : (resetEdge s).perP = State.reset.perP := rfl
@[simp] theorem resetEdge_cntS (s : State) : (resetEdge s).cntS = State.reset.cntS := rfl
@[simp] theorem resetEdge_perS (s : State) : (resetEdge s).perS = State.reset.perS := rfl
@[simp] theorem resetEdge_ovf (s : State) : (resetEdge s).ovf = State.reset.ovf := rfl
@[simp] theorem resetEdge_ledStep (s : State) : (resetEdge s).ledStep = State.reset.ledStep := rfl
@[simp] theorem resetEdge_ledDir (s : State) : (resetEdge s).ledDir = State.reset.ledDir := rfl
@[simp] theorem resetEdge_ledTick (s : State) : (resetEdge s).ledTick = State.reset.ledTick := rfl
@[simp] theorem resetEdge_ledOut (s : State) : (resetEdge s).ledOut = State.reset.ledOut := rfl
@[simp] theorem resetEdge_csN (s : State) : (resetEdge s).csN = State.reset.csN := rfl
@[simp] theorem resetEdge_trigQ (s : State) : (resetEdge s).trigQ = State.reset.trigQ := rfl
@[simp] theorem resetEdge_trigPend (s : State) : (resetEdge s).trigPend = State.reset.trigPend := rfl
@[simp] theorem resetEdge_faultLate (s : State) : (resetEdge s).faultLate = State.reset.faultLate := rfl
@[simp] theorem resetEdge_faultOvr (s : State) : (resetEdge s).faultOvr = State.reset.faultOvr := rfl
@[simp] theorem resetEdge_ee (s : State) : (resetEdge s).ee = Eeprom.atResetEdge s.cfg.eeSize s.held (Config.freePtr s.edge) s.ee :=
  rfl
@[simp] theorem resetEdge_busRx (s : State) : (resetEdge s).busRx = s.busRx := rfl
@[simp] theorem resetEdge_stim (s : State) : (resetEdge s).stim = s.stim.tail := rfl
@[simp] theorem resetEdge_edge (s : State) : (resetEdge s).edge = s.edge + 1 := rfl
@[simp] theorem resetEdge_draws (s : State) : (resetEdge s).draws = s.draws := rfl
@[simp] theorem resetEdge_imageProgrammed (s : State) : (resetEdge s).imageProgrammed = (s.imageProgrammed || s.held.imageDone) :=
  rfl

@[simp] theorem drawByte_cfg (s : State) : ((drawByte s).2).cfg = s.cfg := rfl
@[simp] theorem drawByte_seq (s : State) : ((drawByte s).2).seq = s.seq := rfl
@[simp] theorem drawByte_wcnt (s : State) : ((drawByte s).2).wcnt = s.wcnt := rfl
@[simp] theorem drawByte_trackIdx (s : State) : ((drawByte s).2).trackIdx = s.trackIdx := rfl
@[simp] theorem drawByte_addr (s : State) : ((drawByte s).2).addr = s.addr := rfl
@[simp] theorem drawByte_rem (s : State) : ((drawByte s).2).rem = s.rem := rfl
@[simp] theorem drawByte_sample (s : State) : ((drawByte s).2).sample = s.sample := rfl
@[simp] theorem drawByte_cmpBuf (s : State) : ((drawByte s).2).cmpBuf = s.cmpBuf := rfl
@[simp] theorem drawByte_cmpAct (s : State) : ((drawByte s).2).cmpAct = s.cmpAct := rfl
@[simp] theorem drawByte_cntP (s : State) : ((drawByte s).2).cntP = s.cntP := rfl
@[simp] theorem drawByte_perP (s : State) : ((drawByte s).2).perP = s.perP := rfl
@[simp] theorem drawByte_cntS (s : State) : ((drawByte s).2).cntS = s.cntS := rfl
@[simp] theorem drawByte_perS (s : State) : ((drawByte s).2).perS = s.perS := rfl
@[simp] theorem drawByte_ovf (s : State) : ((drawByte s).2).ovf = s.ovf := rfl
@[simp] theorem drawByte_ledStep (s : State) : ((drawByte s).2).ledStep = s.ledStep := rfl
@[simp] theorem drawByte_ledDir (s : State) : ((drawByte s).2).ledDir = s.ledDir := rfl
@[simp] theorem drawByte_ledTick (s : State) : ((drawByte s).2).ledTick = s.ledTick := rfl
@[simp] theorem drawByte_ledOut (s : State) : ((drawByte s).2).ledOut = s.ledOut := rfl
@[simp] theorem drawByte_csN (s : State) : ((drawByte s).2).csN = s.csN := rfl
@[simp] theorem drawByte_trigQ (s : State) : ((drawByte s).2).trigQ = s.trigQ := rfl
@[simp] theorem drawByte_trigPend (s : State) : ((drawByte s).2).trigPend = s.trigPend := rfl
@[simp] theorem drawByte_faultLate (s : State) : ((drawByte s).2).faultLate = s.faultLate := rfl
@[simp] theorem drawByte_faultOvr (s : State) : ((drawByte s).2).faultOvr = s.faultOvr := rfl
@[simp] theorem drawByte_ee (s : State) : ((drawByte s).2).ee = s.ee := rfl
@[simp] theorem drawByte_busRx (s : State) : ((drawByte s).2).busRx = s.busRx := rfl
@[simp] theorem drawByte_stim (s : State) : ((drawByte s).2).stim = s.stim := rfl
@[simp] theorem drawByte_edge (s : State) : ((drawByte s).2).edge = s.edge := rfl
@[simp] theorem drawByte_draws (s : State) : ((drawByte s).2).draws = s.draws + 1 := rfl
@[simp] theorem drawByte_imageProgrammed (s : State) : ((drawByte s).2).imageProgrammed = s.imageProgrammed := rfl

@[simp] theorem drawByte_fst (s : State) : (drawByte s).1 = Config.freeByte s.draws := rfl

@[simp] theorem csFall_cfg (s : State) : (csFall s).cfg = s.cfg := rfl
@[simp] theorem csFall_seq (s : State) : (csFall s).seq = s.seq := rfl
@[simp] theorem csFall_wcnt (s : State) : (csFall s).wcnt = s.wcnt := rfl
@[simp] theorem csFall_trackIdx (s : State) : (csFall s).trackIdx = s.trackIdx := rfl
@[simp] theorem csFall_addr (s : State) : (csFall s).addr = s.addr := rfl
@[simp] theorem csFall_rem (s : State) : (csFall s).rem = s.rem := rfl
@[simp] theorem csFall_sample (s : State) : (csFall s).sample = s.sample := rfl
@[simp] theorem csFall_cmpBuf (s : State) : (csFall s).cmpBuf = s.cmpBuf := rfl
@[simp] theorem csFall_cmpAct (s : State) : (csFall s).cmpAct = s.cmpAct := rfl
@[simp] theorem csFall_cntP (s : State) : (csFall s).cntP = s.cntP := rfl
@[simp] theorem csFall_perP (s : State) : (csFall s).perP = s.perP := rfl
@[simp] theorem csFall_cntS (s : State) : (csFall s).cntS = s.cntS := rfl
@[simp] theorem csFall_perS (s : State) : (csFall s).perS = s.perS := rfl
@[simp] theorem csFall_ovf (s : State) : (csFall s).ovf = s.ovf := rfl
@[simp] theorem csFall_ledStep (s : State) : (csFall s).ledStep = s.ledStep := rfl
@[simp] theorem csFall_ledDir (s : State) : (csFall s).ledDir = s.ledDir := rfl
@[simp] theorem csFall_ledTick (s : State) : (csFall s).ledTick = s.ledTick := rfl
@[simp] theorem csFall_ledOut (s : State) : (csFall s).ledOut = s.ledOut := rfl
@[simp] theorem csFall_csN (s : State) : (csFall s).csN = s.csN := rfl
@[simp] theorem csFall_trigQ (s : State) : (csFall s).trigQ = s.trigQ := rfl
@[simp] theorem csFall_trigPend (s : State) : (csFall s).trigPend = s.trigPend := rfl
@[simp] theorem csFall_faultLate (s : State) : (csFall s).faultLate = s.faultLate := rfl
@[simp] theorem csFall_faultOvr (s : State) : (csFall s).faultOvr = s.faultOvr := rfl
@[simp] theorem csFall_ee (s : State) : (csFall s).ee = { s.ee with mode := .cmd } := rfl
@[simp] theorem csFall_busRx (s : State) : (csFall s).busRx = s.busRx := rfl
@[simp] theorem csFall_stim (s : State) : (csFall s).stim = s.stim := rfl
@[simp] theorem csFall_edge (s : State) : (csFall s).edge = s.edge := rfl
@[simp] theorem csFall_draws (s : State) : (csFall s).draws = s.draws := rfl
@[simp] theorem csFall_imageProgrammed (s : State) : (csFall s).imageProgrammed = s.imageProgrammed := rfl

@[simp] theorem csRise_cfg (s : State) : (csRise s).cfg = s.cfg := rfl
@[simp] theorem csRise_seq (s : State) : (csRise s).seq = s.seq := rfl
@[simp] theorem csRise_wcnt (s : State) : (csRise s).wcnt = s.wcnt := rfl
@[simp] theorem csRise_trackIdx (s : State) : (csRise s).trackIdx = s.trackIdx := rfl
@[simp] theorem csRise_addr (s : State) : (csRise s).addr = s.addr := rfl
@[simp] theorem csRise_rem (s : State) : (csRise s).rem = s.rem := rfl
@[simp] theorem csRise_sample (s : State) : (csRise s).sample = s.sample := rfl
@[simp] theorem csRise_cmpBuf (s : State) : (csRise s).cmpBuf = s.cmpBuf := rfl
@[simp] theorem csRise_cmpAct (s : State) : (csRise s).cmpAct = s.cmpAct := rfl
@[simp] theorem csRise_cntP (s : State) : (csRise s).cntP = s.cntP := rfl
@[simp] theorem csRise_perP (s : State) : (csRise s).perP = s.perP := rfl
@[simp] theorem csRise_cntS (s : State) : (csRise s).cntS = s.cntS := rfl
@[simp] theorem csRise_perS (s : State) : (csRise s).perS = s.perS := rfl
@[simp] theorem csRise_ovf (s : State) : (csRise s).ovf = s.ovf := rfl
@[simp] theorem csRise_ledStep (s : State) : (csRise s).ledStep = s.ledStep := rfl
@[simp] theorem csRise_ledDir (s : State) : (csRise s).ledDir = s.ledDir := rfl
@[simp] theorem csRise_ledTick (s : State) : (csRise s).ledTick = s.ledTick := rfl
@[simp] theorem csRise_ledOut (s : State) : (csRise s).ledOut = s.ledOut := rfl
@[simp] theorem csRise_csN (s : State) : (csRise s).csN = s.csN := rfl
@[simp] theorem csRise_trigQ (s : State) : (csRise s).trigQ = s.trigQ := rfl
@[simp] theorem csRise_trigPend (s : State) : (csRise s).trigPend = s.trigPend := rfl
@[simp] theorem csRise_faultLate (s : State) : (csRise s).faultLate = s.faultLate := rfl
@[simp] theorem csRise_faultOvr (s : State) : (csRise s).faultOvr = s.faultOvr := rfl
@[simp] theorem csRise_ee (s : State) : (csRise s).ee = { s.ee with mode := .off } := rfl
@[simp] theorem csRise_busRx (s : State) : (csRise s).busRx = s.busRx := rfl
@[simp] theorem csRise_stim (s : State) : (csRise s).stim = s.stim := rfl
@[simp] theorem csRise_edge (s : State) : (csRise s).edge = s.edge := rfl
@[simp] theorem csRise_draws (s : State) : (csRise s).draws = s.draws := rfl
@[simp] theorem csRise_imageProgrammed (s : State) : (csRise s).imageProgrammed = s.imageProgrammed := rfl

@[simp] theorem takeWake_cfg (s : State) : (takeWake s).cfg = s.cfg := rfl
@[simp] theorem takeWake_seq (s : State) : (takeWake s).seq = Code.armLoad := rfl
@[simp] theorem takeWake_wcnt (s : State) : (takeWake s).wcnt = s.wcnt := rfl
@[simp] theorem takeWake_trackIdx (s : State) : (takeWake s).trackIdx = s.trackIdx := rfl
@[simp] theorem takeWake_addr (s : State) : (takeWake s).addr = s.addr := rfl
@[simp] theorem takeWake_rem (s : State) : (takeWake s).rem = s.rem := rfl
@[simp] theorem takeWake_sample (s : State) : (takeWake s).sample = s.sample := rfl
@[simp] theorem takeWake_cmpBuf (s : State) : (takeWake s).cmpBuf = s.cmpBuf := rfl
@[simp] theorem takeWake_cmpAct (s : State) : (takeWake s).cmpAct = s.cmpAct := rfl
@[simp] theorem takeWake_cntP (s : State) : (takeWake s).cntP = s.cntP := rfl
@[simp] theorem takeWake_perP (s : State) : (takeWake s).perP = s.perP := rfl
@[simp] theorem takeWake_cntS (s : State) : (takeWake s).cntS = s.cntS := rfl
@[simp] theorem takeWake_perS (s : State) : (takeWake s).perS = s.perS := rfl
@[simp] theorem takeWake_ovf (s : State) : (takeWake s).ovf = s.ovf := rfl
@[simp] theorem takeWake_ledStep (s : State) : (takeWake s).ledStep = s.ledStep := rfl
@[simp] theorem takeWake_ledDir (s : State) : (takeWake s).ledDir = s.ledDir := rfl
@[simp] theorem takeWake_ledTick (s : State) : (takeWake s).ledTick = s.ledTick := rfl
@[simp] theorem takeWake_ledOut (s : State) : (takeWake s).ledOut = s.ledOut := rfl
@[simp] theorem takeWake_csN (s : State) : (takeWake s).csN = s.csN := rfl
@[simp] theorem takeWake_trigQ (s : State) : (takeWake s).trigQ = s.trigQ := rfl
@[simp] theorem takeWake_trigPend (s : State) : (takeWake s).trigPend = s.trigPend := rfl
@[simp] theorem takeWake_faultLate (s : State) : (takeWake s).faultLate = s.faultLate := rfl
@[simp] theorem takeWake_faultOvr (s : State) : (takeWake s).faultOvr = s.faultOvr := rfl
@[simp] theorem takeWake_ee (s : State) : (takeWake s).ee = s.ee := rfl
@[simp] theorem takeWake_busRx (s : State) : (takeWake s).busRx = s.busRx := rfl
@[simp] theorem takeWake_stim (s : State) : (takeWake s).stim = s.stim := rfl
@[simp] theorem takeWake_edge (s : State) : (takeWake s).edge = s.edge := rfl
@[simp] theorem takeWake_draws (s : State) : (takeWake s).draws = s.draws := rfl
@[simp] theorem takeWake_imageProgrammed (s : State) : (takeWake s).imageProgrammed = s.imageProgrammed := rfl

@[simp] theorem returnToIdle_cfg (s : State) : (returnToIdle s).cfg = s.cfg := rfl
@[simp] theorem returnToIdle_seq (s : State) : (returnToIdle s).seq = Code.idle := rfl
@[simp] theorem returnToIdle_wcnt (s : State) : (returnToIdle s).wcnt = s.wcnt := rfl
@[simp] theorem returnToIdle_trackIdx (s : State) : (returnToIdle s).trackIdx = s.trackIdx := rfl
@[simp] theorem returnToIdle_addr (s : State) : (returnToIdle s).addr = s.addr := rfl
@[simp] theorem returnToIdle_rem (s : State) : (returnToIdle s).rem = s.rem := rfl
@[simp] theorem returnToIdle_sample (s : State) : (returnToIdle s).sample = s.sample := rfl
@[simp] theorem returnToIdle_cmpBuf (s : State) : (returnToIdle s).cmpBuf = s.cmpBuf := rfl
@[simp] theorem returnToIdle_cmpAct (s : State) : (returnToIdle s).cmpAct = s.cmpAct := rfl
@[simp] theorem returnToIdle_cntP (s : State) : (returnToIdle s).cntP = s.cntP := rfl
@[simp] theorem returnToIdle_perP (s : State) : (returnToIdle s).perP = s.perP := rfl
@[simp] theorem returnToIdle_cntS (s : State) : (returnToIdle s).cntS = s.cntS := rfl
@[simp] theorem returnToIdle_perS (s : State) : (returnToIdle s).perS = s.perS := rfl
@[simp] theorem returnToIdle_ovf (s : State) : (returnToIdle s).ovf = s.ovf := rfl
@[simp] theorem returnToIdle_ledStep (s : State) : (returnToIdle s).ledStep = s.ledStep := rfl
@[simp] theorem returnToIdle_ledDir (s : State) : (returnToIdle s).ledDir = s.ledDir := rfl
@[simp] theorem returnToIdle_ledTick (s : State) : (returnToIdle s).ledTick = s.ledTick := rfl
@[simp] theorem returnToIdle_ledOut (s : State) : (returnToIdle s).ledOut = s.ledOut := rfl
@[simp] theorem returnToIdle_csN (s : State) : (returnToIdle s).csN = s.csN := rfl
@[simp] theorem returnToIdle_trigQ (s : State) : (returnToIdle s).trigQ = s.trigQ := rfl
@[simp] theorem returnToIdle_trigPend (s : State) : (returnToIdle s).trigPend = s.trigPend := rfl
@[simp] theorem returnToIdle_faultLate (s : State) : (returnToIdle s).faultLate = s.faultLate := rfl
@[simp] theorem returnToIdle_faultOvr (s : State) : (returnToIdle s).faultOvr = s.faultOvr := rfl
@[simp] theorem returnToIdle_ee (s : State) : (returnToIdle s).ee = s.ee := rfl
@[simp] theorem returnToIdle_busRx (s : State) : (returnToIdle s).busRx = s.busRx := rfl
@[simp] theorem returnToIdle_stim (s : State) : (returnToIdle s).stim = s.stim := rfl
@[simp] theorem returnToIdle_edge (s : State) : (returnToIdle s).edge = s.edge := rfl
@[simp] theorem returnToIdle_draws (s : State) : (returnToIdle s).draws = s.draws := rfl
@[simp] theorem returnToIdle_imageProgrammed (s : State) : (returnToIdle s).imageProgrammed = s.imageProgrammed := rfl

@[simp] theorem counterStop_cfg (s : State) : (counterStop s).cfg = s.cfg := rfl
@[simp] theorem counterStop_seq (s : State) : (counterStop s).seq = s.seq := rfl
@[simp] theorem counterStop_wcnt (s : State) : (counterStop s).wcnt = s.wcnt := rfl
@[simp] theorem counterStop_trackIdx (s : State) : (counterStop s).trackIdx = s.trackIdx := rfl
@[simp] theorem counterStop_addr (s : State) : (counterStop s).addr = s.addr := rfl
@[simp] theorem counterStop_rem (s : State) : (counterStop s).rem = s.rem := rfl
@[simp] theorem counterStop_sample (s : State) : (counterStop s).sample = s.sample := rfl
@[simp] theorem counterStop_cmpBuf (s : State) : (counterStop s).cmpBuf = s.cmpBuf := rfl
@[simp] theorem counterStop_cmpAct (s : State) : (counterStop s).cmpAct = s.cmpAct := rfl
@[simp] theorem counterStop_cntP (s : State) : (counterStop s).cntP = s.cntP := rfl
@[simp] theorem counterStop_perP (s : State) : (counterStop s).perP = 0 := rfl
@[simp] theorem counterStop_cntS (s : State) : (counterStop s).cntS = s.cntS := rfl
@[simp] theorem counterStop_perS (s : State) : (counterStop s).perS = 0 := rfl
@[simp] theorem counterStop_ovf (s : State) : (counterStop s).ovf = s.ovf := rfl
@[simp] theorem counterStop_ledStep (s : State) : (counterStop s).ledStep = s.ledStep := rfl
@[simp] theorem counterStop_ledDir (s : State) : (counterStop s).ledDir = s.ledDir := rfl
@[simp] theorem counterStop_ledTick (s : State) : (counterStop s).ledTick = s.ledTick := rfl
@[simp] theorem counterStop_ledOut (s : State) : (counterStop s).ledOut = s.ledOut := rfl
@[simp] theorem counterStop_csN (s : State) : (counterStop s).csN = s.csN := rfl
@[simp] theorem counterStop_trigQ (s : State) : (counterStop s).trigQ = s.trigQ := rfl
@[simp] theorem counterStop_trigPend (s : State) : (counterStop s).trigPend = s.trigPend := rfl
@[simp] theorem counterStop_faultLate (s : State) : (counterStop s).faultLate = s.faultLate := rfl
@[simp] theorem counterStop_faultOvr (s : State) : (counterStop s).faultOvr = s.faultOvr := rfl
@[simp] theorem counterStop_ee (s : State) : (counterStop s).ee = s.ee := rfl
@[simp] theorem counterStop_busRx (s : State) : (counterStop s).busRx = s.busRx := rfl
@[simp] theorem counterStop_stim (s : State) : (counterStop s).stim = s.stim := rfl
@[simp] theorem counterStop_edge (s : State) : (counterStop s).edge = s.edge := rfl
@[simp] theorem counterStop_draws (s : State) : (counterStop s).draws = s.draws := rfl
@[simp] theorem counterStop_imageProgrammed (s : State) : (counterStop s).imageProgrammed = s.imageProgrammed := rfl

@[simp] theorem counterStart_cfg (p s : State) : (counterStart p s).cfg = s.cfg := rfl
@[simp] theorem counterStart_seq (p s : State) : (counterStart p s).seq = s.seq := rfl
@[simp] theorem counterStart_wcnt (p s : State) : (counterStart p s).wcnt = s.wcnt := rfl
@[simp] theorem counterStart_trackIdx (p s : State) : (counterStart p s).trackIdx = s.trackIdx := rfl
@[simp] theorem counterStart_addr (p s : State) : (counterStart p s).addr = s.addr := rfl
@[simp] theorem counterStart_rem (p s : State) : (counterStart p s).rem = s.rem := rfl
@[simp] theorem counterStart_sample (p s : State) : (counterStart p s).sample = s.sample := rfl
@[simp] theorem counterStart_cmpBuf (p s : State) : (counterStart p s).cmpBuf = s.cmpBuf := rfl
@[simp] theorem counterStart_cmpAct (p s : State) : (counterStart p s).cmpAct = p.cmpBuf := rfl
@[simp] theorem counterStart_cntP (p s : State) : (counterStart p s).cntP = 0 := rfl
@[simp] theorem counterStart_perP (p s : State) : (counterStart p s).perP = 256 := rfl
@[simp] theorem counterStart_cntS (p s : State) : (counterStart p s).cntS = 0 := rfl
@[simp] theorem counterStart_perS (p s : State) : (counterStart p s).perS = BitVec.ofNat 16 p.cfg.samplePeriod := rfl
@[simp] theorem counterStart_ovf (p s : State) : (counterStart p s).ovf = false := rfl
@[simp] theorem counterStart_ledStep (p s : State) : (counterStart p s).ledStep = s.ledStep := rfl
@[simp] theorem counterStart_ledDir (p s : State) : (counterStart p s).ledDir = s.ledDir := rfl
@[simp] theorem counterStart_ledTick (p s : State) : (counterStart p s).ledTick = s.ledTick := rfl
@[simp] theorem counterStart_ledOut (p s : State) : (counterStart p s).ledOut = s.ledOut := rfl
@[simp] theorem counterStart_csN (p s : State) : (counterStart p s).csN = s.csN := rfl
@[simp] theorem counterStart_trigQ (p s : State) : (counterStart p s).trigQ = s.trigQ := rfl
@[simp] theorem counterStart_trigPend (p s : State) : (counterStart p s).trigPend = s.trigPend := rfl
@[simp] theorem counterStart_faultLate (p s : State) : (counterStart p s).faultLate = s.faultLate := rfl
@[simp] theorem counterStart_faultOvr (p s : State) : (counterStart p s).faultOvr = s.faultOvr := rfl
@[simp] theorem counterStart_ee (p s : State) : (counterStart p s).ee = s.ee := rfl
@[simp] theorem counterStart_busRx (p s : State) : (counterStart p s).busRx = s.busRx := rfl
@[simp] theorem counterStart_stim (p s : State) : (counterStart p s).stim = s.stim := rfl
@[simp] theorem counterStart_edge (p s : State) : (counterStart p s).edge = s.edge := rfl
@[simp] theorem counterStart_draws (p s : State) : (counterStart p s).draws = s.draws := rfl
@[simp] theorem counterStart_imageProgrammed (p s : State) : (counterStart p s).imageProgrammed = s.imageProgrammed :=
  rfl

@[simp] theorem ledOutput_cfg (s : State) : (ledOutput s).cfg = s.cfg := rfl
@[simp] theorem ledOutput_seq (s : State) : (ledOutput s).seq = s.seq := rfl
@[simp] theorem ledOutput_wcnt (s : State) : (ledOutput s).wcnt = s.wcnt := rfl
@[simp] theorem ledOutput_trackIdx (s : State) : (ledOutput s).trackIdx = s.trackIdx := rfl
@[simp] theorem ledOutput_addr (s : State) : (ledOutput s).addr = s.addr := rfl
@[simp] theorem ledOutput_rem (s : State) : (ledOutput s).rem = s.rem := rfl
@[simp] theorem ledOutput_sample (s : State) : (ledOutput s).sample = s.sample := rfl
@[simp] theorem ledOutput_cmpBuf (s : State) : (ledOutput s).cmpBuf = s.cmpBuf := rfl
@[simp] theorem ledOutput_cmpAct (s : State) : (ledOutput s).cmpAct = s.cmpAct := rfl
@[simp] theorem ledOutput_cntP (s : State) : (ledOutput s).cntP = s.cntP := rfl
@[simp] theorem ledOutput_perP (s : State) : (ledOutput s).perP = s.perP := rfl
@[simp] theorem ledOutput_cntS (s : State) : (ledOutput s).cntS = s.cntS := rfl
@[simp] theorem ledOutput_perS (s : State) : (ledOutput s).perS = s.perS := rfl
@[simp] theorem ledOutput_ovf (s : State) : (ledOutput s).ovf = s.ovf := rfl
@[simp] theorem ledOutput_ledStep (s : State) : (ledOutput s).ledStep = s.ledStep := rfl
@[simp] theorem ledOutput_ledDir (s : State) : (ledOutput s).ledDir = s.ledDir := rfl
@[simp] theorem ledOutput_ledTick (s : State) : (ledOutput s).ledTick = s.ledTick := rfl
@[simp] theorem ledOutput_ledOut (s : State) : (ledOutput s).ledOut = decide (s.rem.toNat % s.cfg.steps < s.ledStep.toNat) := rfl
@[simp] theorem ledOutput_csN (s : State) : (ledOutput s).csN = s.csN := rfl
@[simp] theorem ledOutput_trigQ (s : State) : (ledOutput s).trigQ = s.trigQ := rfl
@[simp] theorem ledOutput_trigPend (s : State) : (ledOutput s).trigPend = s.trigPend := rfl
@[simp] theorem ledOutput_faultLate (s : State) : (ledOutput s).faultLate = s.faultLate := rfl
@[simp] theorem ledOutput_faultOvr (s : State) : (ledOutput s).faultOvr = s.faultOvr := rfl
@[simp] theorem ledOutput_ee (s : State) : (ledOutput s).ee = s.ee := rfl
@[simp] theorem ledOutput_busRx (s : State) : (ledOutput s).busRx = s.busRx := rfl
@[simp] theorem ledOutput_stim (s : State) : (ledOutput s).stim = s.stim := rfl
@[simp] theorem ledOutput_edge (s : State) : (ledOutput s).edge = s.edge := rfl
@[simp] theorem ledOutput_draws (s : State) : (ledOutput s).draws = s.draws := rfl
@[simp] theorem ledOutput_imageProgrammed (s : State) : (ledOutput s).imageProgrammed = s.imageProgrammed := rfl

end Sys2Proof.Machine
end

