-- ==== Sys2Proof/Laws/Ops.lean ====
section
/-! SUPPORT. One lemma for each shared operation that says everything it can do. -/

namespace Sys2Proof.Machine

/-- `t` is `s` after the device took bytes: only the device's transaction registers and the draw counter may differ. -/
structure OnBus (s t : State) : Prop where
  rest : t = { s with ee := t.ee, draws := t.draws }
  mem : t.ee.mem = s.ee.mem
  program : t.ee.program = s.ee.program
  writeEnabled : t.ee.writeEnabled = s.ee.writeEnabled

theorem OnBus.refl (s : State) : OnBus s s := ⟨rfl, rfl, rfl, rfl⟩

theorem OnBus.trans {s t u : State} (h : OnBus s t) (k : OnBus t u) : OnBus s u :=
  ⟨by rw [k.rest, h.rest], k.mem.trans h.mem, k.program.trans h.program, k.writeEnabled.trans h.writeEnabled⟩

theorem drawByte_onBus (s : State) : OnBus s (drawByte s).2 := ⟨rfl, rfl, rfl, rfl⟩

theorem memRead_onBus (a : EeAddr) (s : State) : OnBus s (memRead a s).2 := by
  unfold memRead
  split
  · exact drawByte_onBus s
  · exact OnBus.refl s

/-- Inside the array of an idle device, `MemRead` gives the cell (R45). -/
theorem memRead_inside {a : EeAddr} {s : State} (hb : s.ee.busy = false) (ha : a.toNat < s.cfg.eeSize) :
    memRead a s = (Memory.read s.ee.mem a.toNat, s) := by
  unfold memRead
  rw [if_neg]
  rintro (h | h)
  · simp [hb] at h
  · omega

/-- One byte of the EEPROM changes its transaction registers only (R46). -/
theorem eeByte_onBus (tx : Byte) (s : State) : OnBus s (eeByte tx s).2 := by
  unfold eeByte
  split
  case h_6 =>
    unfold memRead
    split <;> exact ⟨rfl, rfl, rfl, rfl⟩
  all_goals exact ⟨rfl, rfl, rfl, rfl⟩

/-- The engine's exchange does the same (R56). -/
theorem spiXfer_onBus (tx : Byte) (s : State) : OnBus s (spiXfer tx s).2 := by
  unfold spiXfer
  split
  · exact drawByte_onBus s
  · exact eeByte_onBus tx s

theorem csFall_onBus (s : State) : OnBus s (csFall s) := ⟨rfl, rfl, rfl, rfl⟩

theorem csRise_onBus (s : State) : OnBus s (csRise s) := ⟨rfl, rfl, rfl, rfl⟩

theorem exchangeAll_onBus (bytes : List Byte) (s : State) : OnBus s (exchangeAll bytes s).2 := by
  induction bytes generalizing s with
  | nil => exact OnBus.refl s
  | cons tx rest ih => exact (eeByte_onBus tx s).trans (ih _)

/-- A whole transaction changes the device's transaction registers only, and leaves it in OFF (R44, R48). -/
theorem transaction_onBus (bytes : List Byte) (s : State) :
    OnBus s (transaction bytes s).2 ∧ (transaction bytes s).2.ee.mode = .off :=
  ⟨((csFall_onBus s).trans (exchangeAll_onBus bytes _)).trans (csRise_onBus _), rfl⟩

/-- A transaction returns one byte for each byte sent (R48). -/
theorem exchangeAll_length (bytes : List Byte) (s : State) : (exchangeAll bytes s).1.length = bytes.length := by
  induction bytes generalizing s with
  | nil => rfl
  | cons tx rest ih => simp [exchangeAll, ih]

/-- Writing `cs_n` writes `cs_n` and the device's mode, nothing else. -/
theorem setCs_eq (level : Bool) (s : State) :
    setCs level s = { s with
      csN := level
      ee := { s.ee with mode :=
        if s.csN = true ∧ level = false then .cmd
        else if s.csN = false ∧ level = true then .off else s.ee.mode } } := by
  unfold setCs
  split
  · rfl
  · split <;> rfl

/-- A state of several cycles stays or completes (R75). -/
theorem multiCycle_cases (cost : BitVec 32) (q : SeqCode) (f : State → State) (s : State) :
    (s.wcnt.toNat < cost.toNat - 1 ∧ multiCycle cost q f s = { clockEdge q s with wcnt := s.wcnt + 1 }) ∨
    (cost.toNat - 1 ≤ s.wcnt.toNat ∧ multiCycle cost q f s = f { clockEdge q s with wcnt := 0 }) := by
  unfold multiCycle
  by_cases h : s.wcnt.toNat < cost.toNat - 1
  · exact .inl ⟨h, by rw [if_pos h]⟩
  · exact .inr ⟨by omega, by rw [if_neg h]⟩

/-- The ramp writes its three registers only (R98). -/
theorem ledRampStep_eq (t : State) :
    ledRampStep t = { t with
      ledStep := (ledRampStep t).ledStep, ledDir := (ledRampStep t).ledDir, ledTick := (ledRampStep t).ledTick } := by
  unfold ledRampStep
  split
  · split <;> rfl
  · rfl

/-- The cells of a list of draws stand at the given addresses. -/
theorem drawCells_addresses (as : List Nat) (s : State) : (drawCells as s).1.map Prod.fst = as := by
  induction as generalizing s with
  | nil => rfl
  | cons a rest ih => simp [drawCells, ih]

theorem drawCells_onBus (as : List Nat) (s : State) : OnBus s (drawCells as s).2 := by
  induction as generalizing s with
  | nil => exact OnBus.refl s
  | cons a rest ih => exact (drawByte_onBus s).trans (ih _)

theorem programCells_onBus (a : Nat) (data : List Byte) (s : State) : OnBus s (programCells a data s).2 := by
  unfold programCells
  split
  · exact drawCells_onBus _ s
  · split
    · exact OnBus.refl s
    · exact drawCells_onBus _ s

/-- A programmer's transaction: the reset edge, then the device's transaction registers and the returned bytes. -/
theorem programmerFrame_eq (bytes : List Byte) (s : State) :
    ∃ t, OnBus (resetEdge s) t ∧ t.ee.mode = .off ∧
      programmerFrame bytes s = { t with busRx := (transaction bytes (resetEdge s)).1 } :=
  ⟨_, (transaction_onBus bytes (resetEdge s)).1, rfl, rfl⟩

end Sys2Proof.Machine
end

