-- ==== Sys2Proof/Laws/Step.lean ====
section
/-! SUPPORT. What a step can do, said once: the cases of `step`. -/

namespace Sys2Proof.Machine

/-- A step with a next state ran, under an admitted configuration, one of: the state rule of `seq` (idle device,
programmed image), a bare
reset edge, a command of the programmer, or a transaction outside the table. -/
theorem step_cases {s t : State} (h : step s = .next t) :
    s.cfg.failing = none ∧
    ((s.inputs.reset = none ∧ s.ee.busy = false ∧ s.imageProgrammed = true ∧ exec (decodeSeq s.seq) s = .next t) ∨
     (∃ held, s.inputs.reset = some held ∧ held.frame = none ∧ t = resetEdge s) ∨
     (∃ held bytes i, s.inputs.reset = some held ∧ held.frame = some bytes ∧ decodeFrame bytes = .ok i ∧
        exec i s = .next t) ∨
     (∃ held bytes e, s.inputs.reset = some held ∧ held.frame = some bytes ∧ decodeFrame bytes = .error e ∧
        t = rawFrame bytes s)) := by
  unfold step fetch fetchRunning at h
  cases hc : s.cfg.failing with
  | some c => simp [hc] at h
  | none =>
    refine ⟨rfl, ?_⟩
    cases hr : s.inputs.reset with
    | none =>
      cases hb : s.ee.busy with
      | true => simp [hc, hr, hb] at h
      | false =>
        cases hi : s.imageProgrammed with
        | false => simp [hc, hr, hb, hi] at h
        | true => exact .inl ⟨rfl, rfl, rfl, by simpa [hc, hr, hb, hi] using h⟩
    | some held =>
      refine .inr ?_
      cases hf : held.frame with
      | none => exact .inl ⟨held, rfl, hf, by simpa [hc, hr, hf, eq_comm] using h⟩
      | some bytes =>
        refine .inr ?_
        cases hd : decodeFrame bytes with
        | ok i => exact .inl ⟨held, bytes, i, rfl, hf, hd, by simpa [hc, hr, hf, hd] using h⟩
        | error e =>
          refine .inr ⟨held, bytes, e, rfl, hf, hd, ?_⟩
          cases e <;> simp_all

end Sys2Proof.Machine
end

