-- ==== Sys2Proof/Laws/Edges.lean ====
section
/-! SUPPORT. What every state rule and every transaction of the programmer have in common, said once: cite these instead of
going through the instructions again. -/

namespace Sys2Proof.Machine

/-- An overflow event, as an inequality of the rule (R66). -/
theorem ovfEvent_iff (s : State) : ovfEvent s = true ↔ s.perS ≠ 0 ∧ s.cntS.toNat + 1 = s.perS.toNat := by
  simp only [ovfEvent, decide_eq_true_eq]
  refine and_congr_right fun h => ?_
  have : s.perS.toNat ≠ 0 := fun k => h (BitVec.eq_of_toNat_eq k)
  omega

/-- A carrier wrap, as an equation of the rule (R64). -/
theorem carrierWrap_iff (s : State) : carrierWrap s = true ↔ s.perP ≠ 0 ∧ s.cntP.toNat + 1 = s.perP.toNat := by
  simp only [carrierWrap, decide_eq_true_eq]
  refine and_congr_right fun h => ?_
  have : s.perP.toNat ≠ 0 := fun k => h (BitVec.eq_of_toNat_eq k)
  omega

/-- What the state rule of code `q` keeps of the edge rules, with ARM_START's override (R70) and S_DUTY's write (R85). -/
structure EdgeKept (q : SeqCode) (s t : State) : Prop where
  cntP : t.cntP = if q = Code.armStart then 0 else nextCntP s
  cntS : t.cntS = if q = Code.armStart then 0 else nextCntS s
  ovf : t.ovf = if q = Code.armStart then false else nextOvf q s
  cmpAct : t.cmpAct = if q = Code.armStart then s.cmpBuf else nextCmpAct s
  trigPend : t.trigPend = nextTrigPend s
  trigQ : t.trigQ = s.btn
  late : t.faultLate = (s.faultLate || lateEvent q s)
  ovr : t.faultOvr = (s.faultOvr || ovrEvent q s)
  cmpBuf : t.cmpBuf = if q = Code.sDuty then s.sample else s.cmpBuf
  cfg : t.cfg = s.cfg
  mem : t.ee.mem = s.ee.mem

theorem clockEdge_kept {q : SeqCode} (h6 : q ≠ Code.armStart) (h9 : q ≠ Code.sDuty) (s : State) :
    EdgeKept q s (clockEdge q s) :=
  ⟨(if_neg h6).symm, (if_neg h6).symm, (if_neg h6).symm, (if_neg h6).symm, rfl, rfl, rfl, rfl, (if_neg h9).symm, rfl, rfl⟩

/-- A byte exchange writes the device and the draw counter only. -/
theorem spiXfer_shape (tx : Byte) (t : State) :
    ∃ e d, (spiXfer tx t).2 = { t with ee := e, draws := d } ∧ e.mem = t.ee.mem :=
  ⟨_, _, (spiXfer_onBus tx t).rest, (spiXfer_onBus tx t).mem⟩

/-- A state of several cycles keeps the edge rules when its completion writes none of their registers. -/
theorem multiCycle_kept {cost : BitVec 32} {q : SeqCode} {f : State → State} (h6 : q ≠ Code.armStart)
    (h9 : q ≠ Code.sDuty) (hf : ∀ t, ∃ a b e d w,
      f t = { t with seq := a, sample := b, ee := e, draws := d, wcnt := w } ∧ e.mem = t.ee.mem) (s : State) :
    EdgeKept q s (multiCycle cost q f s) := by
  have k := clockEdge_kept h6 h9 s
  rcases multiCycle_cases cost q f s with ⟨_, h⟩ | ⟨_, h⟩ <;> rw [h]
  · exact ⟨k.cntP, k.cntS, k.ovf, k.cmpAct, k.trigPend, k.trigQ, k.late, k.ovr, k.cmpBuf, k.cfg, k.mem⟩
  · obtain ⟨a, b, e, d, w, h, hm⟩ := hf { clockEdge q s with wcnt := 0 }
    rw [h]
    exact ⟨k.cntP, k.cntS, k.ovf, k.cmpAct, k.trigPend, k.trigQ, k.late, k.ovr, k.cmpBuf, k.cfg, hm.trans k.mem⟩

theorem sendByte_kept {q next : SeqCode} {tx : Byte} (h6 : q ≠ Code.armStart) (h9 : q ≠ Code.sDuty) (s : State) :
    EdgeKept q s (sendByte q tx next s) := by
  refine multiCycle_kept h6 h9 (fun t => ?_) s
  obtain ⟨e, d, h, hm⟩ := spiXfer_shape tx t
  exact ⟨next, t.sample, e, d, t.wcnt, by rw [h], hm⟩

/-- The 17 states and the illegal codes. -/
theorem seqCode_cases (q : SeqCode) :
    (q = Code.idle ∨ q = Code.armLoad ∨ q = Code.armCmd ∨ q = Code.armAddr2 ∨ q = Code.armAddr1 ∨ q = Code.armAddr0 ∨
      q = Code.armStart) ∨
    (q = Code.sCheck ∨ q = Code.sFetch ∨ q = Code.sDuty ∨ q = Code.sLed ∨ q = Code.sWait) ∨
    (q = Code.dStop ∨ q = Code.dCsoff ∨ q = Code.dLedon ∨ q = Code.dAdvance ∨ q = Code.dSettle) ∨ 0x11#5 ≤ q := by
  revert q
  decide

/-- An illegal code runs the recovery rule under its own code (R93). -/
theorem exec_illegal (q : SeqCode) (h : 0x11#5 ≤ q) (s : State) : exec (decodeSeq q) s = recoverIllegal q s := by
  have all : ∀ q : SeqCode, 0x11#5 ≤ q → q = 0x11#5 ∨ q = 0x12#5 ∨ q = 0x13#5 ∨ q = 0x14#5 ∨ q = 0x15#5 ∨ q = 0x16#5 ∨
      q = 0x17#5 ∨ q = 0x18#5 ∨ q = 0x19#5 ∨ q = 0x1A#5 ∨ q = 0x1B#5 ∨ q = 0x1C#5 ∨ q = 0x1D#5 ∨ q = 0x1E#5 ∨
      q = 0x1F#5 := by decide
  rcases all q h with rfl | rfl | rfl | rfl | rfl | rfl | rfl | rfl | rfl | rfl | rfl | rfl | rfl | rfl | rfl <;> rfl

/-- Every state rule completes in every state and keeps the edge rules (R74, R11). -/
theorem exec_seq_kept (q : SeqCode) (s : State) : ∃ t, exec (decodeSeq q) s = .next t ∧ EdgeKept q s t := by
  rcases seqCode_cases q with (rfl | rfl | rfl | rfl | rfl | rfl | rfl) | (rfl | rfl | rfl | rfl | rfl) |
    (rfl | rfl | rfl | rfl | rfl) | h
  · refine ⟨_, rfl, ?_⟩
    split <;> exact ⟨rfl, rfl, rfl, rfl, rfl, rfl, rfl, rfl, rfl, rfl, rfl⟩
  · refine ⟨_, rfl, ?_⟩
    rw [setCs_eq]
    exact ⟨rfl, rfl, rfl, rfl, rfl, rfl, rfl, rfl, rfl, rfl, rfl⟩
  · exact ⟨_, rfl, sendByte_kept (by decide) (by decide) s⟩
  · exact ⟨_, rfl, sendByte_kept (by decide) (by decide) s⟩
  · exact ⟨_, rfl, sendByte_kept (by decide) (by decide) s⟩
  · exact ⟨_, rfl, sendByte_kept (by decide) (by decide) s⟩
  · exact ⟨_, rfl, rfl, rfl, rfl, rfl, rfl, rfl, rfl, rfl, rfl, rfl, rfl⟩
  · exact ⟨_, rfl, rfl, rfl, rfl, rfl, rfl, rfl, rfl, rfl, rfl, rfl, rfl⟩
  · refine ⟨_, rfl, multiCycle_kept (by decide) (by decide) (fun t => ?_) s⟩
    obtain ⟨e, d, h, hm⟩ := spiXfer_shape dummyTx t
    exact ⟨Code.sDuty, (spiXfer dummyTx t).1, e, d, t.wcnt, by simp only [h], hm⟩
  · exact ⟨_, rfl, rfl, rfl, rfl, rfl, rfl, rfl, rfl, rfl, rfl, rfl, rfl⟩
  · refine ⟨_, rfl, ?_⟩
    simp only [ledOutput]
    rw [ledRampStep_eq]
    exact ⟨rfl, rfl, rfl, rfl, rfl, rfl, rfl, rfl, rfl, rfl, rfl⟩
  · refine ⟨_, rfl, ?_⟩
    split <;> exact ⟨rfl, rfl, rfl, rfl, rfl, rfl, rfl, rfl, rfl, rfl, rfl⟩
  · exact ⟨_, rfl, rfl, rfl, rfl, rfl, rfl, rfl, rfl, rfl, rfl, rfl, rfl⟩
  · refine ⟨_, rfl, ?_⟩
    rw [setCs_eq]
    exact ⟨rfl, rfl, rfl, rfl, rfl, rfl, rfl, rfl, rfl, rfl, rfl⟩
  · exact ⟨_, rfl, rfl, rfl, rfl, rfl, rfl, rfl, rfl, rfl, rfl, rfl, rfl⟩
  · exact ⟨_, rfl, rfl, rfl, rfl, rfl, rfl, rfl, rfl, rfl, rfl, rfl, rfl⟩
  · exact ⟨_, rfl, multiCycle_kept (by decide) (by decide)
      (fun t => ⟨Code.idle, t.sample, t.ee, t.draws, t.wcnt, rfl, rfl⟩) s⟩
  · have n6 : q ≠ Code.armStart := by rintro rfl; exact absurd h (by decide)
    have n9 : q ≠ Code.sDuty := by rintro rfl; exact absurd h (by decide)
    have k := clockEdge_kept n6 n9 s
    rw [exec_illegal q h]
    exact ⟨_, rfl, k.cntP, k.cntS, k.ovf, k.cmpAct, k.trigPend, k.trigQ, k.late, k.ovr, k.cmpBuf, k.cfg, k.mem⟩

theorem multiCycle_imageProgrammed {cost : BitVec 32} {q : SeqCode} {f : State → State}
    (hf : ∀ t : State, (f t).imageProgrammed = t.imageProgrammed) (s : State) :
    (multiCycle cost q f s).imageProgrammed = s.imageProgrammed := by
  rcases multiCycle_cases cost q f s with ⟨_, h⟩ | ⟨_, h⟩ <;> rw [h]
  · rfl
  · exact hf _

theorem spiXfer_imageProgrammed (tx : Byte) (t : State) : (spiXfer tx t).2.imageProgrammed = t.imageProgrammed := by
  rw [(spiXfer_onBus tx t).rest]

theorem sendByte_imageProgrammed {q next : SeqCode} {tx : Byte} (s : State) :
    (sendByte q tx next s).imageProgrammed = s.imageProgrammed := by
  refine multiCycle_imageProgrammed (fun t => ?_) s
  exact spiXfer_imageProgrammed tx t

/-- No state rule writes the mark of a programmed image. -/
theorem exec_seq_imageProgrammed {q : SeqCode} {s t : State} (h : exec (decodeSeq q) s = .next t) :
    t.imageProgrammed = s.imageProgrammed := by
  rcases seqCode_cases q with (rfl | rfl | rfl | rfl | rfl | rfl | rfl) | (rfl | rfl | rfl | rfl | rfl) |
    (rfl | rfl | rfl | rfl | rfl) | hq
  all_goals try (injection h with h; subst h)
  all_goals try rfl
  · split <;> rfl
  · rw [setCs_eq]; rfl
  iterate 4 exact sendByte_imageProgrammed s
  · refine multiCycle_imageProgrammed (fun t => ?_) s
    exact spiXfer_imageProgrammed dummyTx t
  · simp only [ledOutput]
    rw [ledRampStep_eq]
    rfl
  · split <;> rfl
  · rw [setCs_eq]; rfl
  · refine multiCycle_imageProgrammed (fun t => ?_) s
    rfl
  · rw [exec_illegal q hq] at h
    injection h with h
    subst h
    rfl

/-- The shape of every edge with `rst = 1`: the reset edge, but for the device, the returned bytes and the draw counter; the
image is the reset edge's, and the device is in OFF (R121, R44). -/
def ResetShape (s t : State) : Prop :=
  t = { resetEdge s with ee := t.ee, busRx := t.busRx, draws := t.draws } ∧
  t.ee.mem = (resetEdge s).ee.mem ∧ t.ee.mode = .off

theorem resetEdge_shape (s : State) : ResetShape s (resetEdge s) := ⟨rfl, rfl, rfl⟩

theorem programmerFrame_shape (bytes : List Byte) (s : State) : ResetShape s (programmerFrame bytes s) := by
  obtain ⟨h, ho⟩ := transaction_onBus bytes (resetEdge s)
  refine ⟨?_, h.mem, ho⟩
  unfold programmerFrame
  simp only
  rw [h.rest]

/-- Writing only the device's program cycle, write enable and draws keeps the shape. -/
theorem ResetShape.of {s t u : State} (h : ResetShape s t)
    (hu : u = { t with ee := u.ee, busRx := u.busRx, draws := u.draws }) (hm : u.ee.mem = t.ee.mem)
    (ho : u.ee.mode = t.ee.mode) : ResetShape s u := by
  refine ⟨?_, hm.trans h.2.1, ho.trans h.2.2⟩
  rw [hu, h.1]

theorem drawCells_mode (as : List Nat) (s : State) : (drawCells as s).2.ee.mode = s.ee.mode := by
  induction as generalizing s with
  | nil => rfl
  | cons a rest ih => exact ih _

theorem programCells_mode (a : Nat) (data : List Byte) (s : State) :
    (programCells a data s).2.ee.mode = s.ee.mode := by
  unfold programCells
  split
  · exact drawCells_mode _ s
  · split
    · rfl
    · exact drawCells_mode _ s

theorem startProgram_shape {s t : State} (a : Nat) (data : List Byte) (h : ResetShape s t) :
    ResetShape s (startProgram a data t) := by
  have k := programCells_onBus a data t
  refine h.of ?_ k.mem (programCells_mode a data t)
  unfold startProgram
  simp only
  rw [k.rest]

/-- A frame decodes to one of the five commands. -/
theorem decodeFrame_command {bytes : List Byte} {i : Instr} (h : decodeFrame bytes = .ok i) :
    (∃ a n, i = .read a n) ∨ i = .wren ∨ (∃ a d, i = .pp a d) ∨ (∃ n, i = .rdsr n) ∨ i = .rdid := by
  cases bytes with
  | nil => cases h
  | cons c rest =>
    unfold decodeFrame at h
    repeat' split at h
    all_goals cases h
    all_goals simp

theorem malformedCells_onBus (bytes : List Byte) (s : State) : OnBus s (malformedCells bytes s).2 := by
  unfold malformedCells
  split
  · exact drawCells_onBus _ s
  · exact OnBus.refl s

theorem malformedCells_mode (bytes : List Byte) (s : State) : (malformedCells bytes s).2.ee.mode = s.ee.mode := by
  unfold malformedCells
  split
  · exact drawCells_mode _ s
  · rfl

theorem rawFrame_shape (bytes : List Byte) (s : State) : ResetShape s (rawFrame bytes s) := by
  have h := programmerFrame_shape bytes s
  have hd : ResetShape s (drawByte (programmerFrame bytes s)).2 := h.of rfl rfl rfl
  unfold rawFrame
  split
  · by_cases hp : bytes.headD 0 = Cmd.pp
    · have k := malformedCells_onBus bytes (drawByte (programmerFrame bytes s)).2
      simp only [if_pos hp]
      refine hd.of ?_ k.mem (malformedCells_mode bytes _)
      rw [k.rest]
    · simp only [if_neg hp]
      exact hd.of rfl rfl rfl
  · exact h

/-- Every command of the programmer completes in every state, with the shape of a reset edge. -/
theorem exec_command_shape {bytes : List Byte} {i : Instr} (hd : decodeFrame bytes = .ok i) (s : State) :
    ∃ t, exec i s = .next t ∧ ResetShape s t := by
  rcases decodeFrame_command hd with ⟨a, n, rfl⟩ | rfl | ⟨a, d, rfl⟩ | ⟨n, rfl⟩ | rfl
  · exact ⟨_, rfl, programmerFrame_shape _ s⟩
  · exact ⟨_, rfl, (programmerFrame_shape _ s).of rfl rfl rfl⟩
  · by_cases hw : (Instr.pp a d).wf = true
    · exact ⟨_, if_pos hw, startProgram_shape _ _ (programmerFrame_shape _ s)⟩
    · exact ⟨_, if_neg hw, rawFrame_shape _ s⟩
  · exact ⟨_, rfl, (programmerFrame_shape _ s).of rfl rfl rfl⟩
  · exact ⟨_, rfl, programmerFrame_shape _ s⟩

/-- No instruction stops: every arm of `exec` answers a next state. -/
theorem exec_completes (i : Instr) (s : State) : ∃ t, exec i s = .next t := by
  cases i with
  | pp a d =>
    by_cases hw : (Instr.pp a d).wf = true
    · exact ⟨_, if_pos hw⟩
    · exact ⟨_, if_neg hw⟩
  | _ => exact ⟨_, rfl⟩

/-- Every step: with `rst = 0` the state rule of `seq`, which keeps the edge rules; with `rst = 1` the shape of a reset
edge. -/
theorem step_shape {s t : State} (h : step s = .next t) :
    (s.inputs.reset = none ∧ exec (decodeSeq s.seq) s = .next t ∧ EdgeKept s.seq s t) ∨
    (s.inputs.reset ≠ none ∧ ResetShape s t) := by
  obtain ⟨-, h⟩ := step_cases h
  rcases h with ⟨hr, -, -, h⟩ | ⟨held, hr, -, rfl⟩ | ⟨held, bytes, i, hr, -, hd, h⟩ | ⟨held, bytes, e, hr, -, -, rfl⟩
  · obtain ⟨u, hu, k⟩ := exec_seq_kept s.seq s
    rw [h] at hu
    cases hu
    exact .inl ⟨hr, h, k⟩
  · exact .inr ⟨by simp [hr], resetEdge_shape s⟩
  · obtain ⟨u, hu, k⟩ := exec_command_shape hd s
    rw [h] at hu
    cases hu
    exact .inr ⟨by simp [hr], k⟩
  · exact .inr ⟨by simp [hr], rawFrame_shape bytes s⟩

end Sys2Proof.Machine
end

