-- ==== Sys2Proof/Laws/PerInstr.lean ====
section
/-! SUPPORT. Per-instruction laws. Family OpcodeBits: the leading word of an instruction's encoding, under the mask
spec/opcode_table.json gives its row, is the row's match. -/

namespace Sys2Proof.Laws.OpcodeBits

/-- The mask of the row: all eight bits of a command byte (R48), the five bits of `seq` (R53). -/
def mask : Encoded → Nat
  | .frame _ => 0xFF
  | .code _ => 0x1F

/-- The row's match value. -/
def value : Instr → Nat
  | .read _ _ => 0x03
  | .wren => 0x06
  | .pp _ _ => 0x02
  | .rdsr _ => 0x05
  | .rdid => 0x9F
  | .idle => 0x00
  | .armLoad => 0x01
  | .armCmd => 0x02
  | .armAddr2 => 0x03
  | .armAddr1 => 0x04
  | .armAddr0 => 0x05
  | .armStart => 0x06
  | .sCheck => 0x07
  | .sFetch => 0x08
  | .sDuty => 0x09
  | .sLed => 0x0A
  | .sWait => 0x0B
  | .dStop => 0x0C
  | .dCsoff => 0x0D
  | .dLedon => 0x0E
  | .dAdvance => 0x0F
  | .dSettle => 0x10
  | .illegal11 => 0x11
  | .illegal12 => 0x12
  | .illegal13 => 0x13
  | .illegal14 => 0x14
  | .illegal15 => 0x15
  | .illegal16 => 0x16
  | .illegal17 => 0x17
  | .illegal18 => 0x18
  | .illegal19 => 0x19
  | .illegal1A => 0x1A
  | .illegal1B => 0x1B
  | .illegal1C => 0x1C
  | .illegal1D => 0x1D
  | .illegal1E => 0x1E
  | .illegal1F => 0x1F

/-- The leading word: the command byte, or the code. -/
def leading : Encoded → Nat
  | .frame bytes => (bytes.headD 0).toNat
  | .code c => c.toNat

/-- The encoding of the instruction begins with its row's bits. -/
def Statement (i : Instr) : Prop := leading (encode i) &&& mask (encode i) = value i

theorem read (start : EeAddr) (count : Nat) : Statement (.read start count) := by
  simp [Statement, leading, mask, value, encode]
theorem wren : Statement .wren := rfl
theorem pp (start : EeAddr) (data : List Byte) : Statement (.pp start data) := by
  simp [Statement, leading, mask, value, encode]
theorem rdsr (count : Nat) : Statement (.rdsr count) := by
  simp [Statement, leading, mask, value, encode]
theorem rdid : Statement .rdid := rfl
theorem idle : Statement .idle := rfl
theorem armLoad : Statement .armLoad := rfl
theorem armCmd : Statement .armCmd := rfl
theorem armAddr2 : Statement .armAddr2 := rfl
theorem armAddr1 : Statement .armAddr1 := rfl
theorem armAddr0 : Statement .armAddr0 := rfl
theorem armStart : Statement .armStart := rfl
theorem sCheck : Statement .sCheck := rfl
theorem sFetch : Statement .sFetch := rfl
theorem sDuty : Statement .sDuty := rfl
theorem sLed : Statement .sLed := rfl
theorem sWait : Statement .sWait := rfl
theorem dStop : Statement .dStop := rfl
theorem dCsoff : Statement .dCsoff := rfl
theorem dLedon : Statement .dLedon := rfl
theorem dAdvance : Statement .dAdvance := rfl
theorem dSettle : Statement .dSettle := rfl
theorem illegal11 : Statement .illegal11 := rfl
theorem illegal12 : Statement .illegal12 := rfl
theorem illegal13 : Statement .illegal13 := rfl
theorem illegal14 : Statement .illegal14 := rfl
theorem illegal15 : Statement .illegal15 := rfl
theorem illegal16 : Statement .illegal16 := rfl
theorem illegal17 : Statement .illegal17 := rfl
theorem illegal18 : Statement .illegal18 := rfl
theorem illegal19 : Statement .illegal19 := rfl
theorem illegal1A : Statement .illegal1A := rfl
theorem illegal1B : Statement .illegal1B := rfl
theorem illegal1C : Statement .illegal1C := rfl
theorem illegal1D : Statement .illegal1D := rfl
theorem illegal1E : Statement .illegal1E := rfl
theorem illegal1F : Statement .illegal1F := rfl

end Sys2Proof.Laws.OpcodeBits
end

