-- ==== Sys2Proof/Tests/Slice0.lean ====
section
/-! SUPPORT. The model's own tests: well-formedness, words written out bit by bit, one step of each instruction, and for each
obligation with hypotheses a state that meets them. Expected values come from spec/95_test_vectors.md and the examples of the
rules; the name in a docstring is that vector's. -/

namespace Sys2Proof.Tests

open Sys2Proof.Machine

/-! ## Helpers -/

/-- Does the outcome lead to a state with the property? -/
def leadsTo (o : Host.Outcome State Fault Refusal) (f : State → Bool) : Bool :=
  match o with
  | .next t => f t
  | _ => false

theorem next_of_leadsTo {o : Host.Outcome State Fault Refusal} {f : State → Bool} (h : leadsTo o f = true) :
    ∃ t, o = .next t := by
  cases o with
  | next t => exact ⟨t, rfl⟩
  | fault _ => cases h
  | refused _ => cases h

/-- The configuration of program P1. -/
def p1 : Params where
  fClk := 64000
  samplePeriod := 8
  spiByteCycles := 2
  settleCycles := 3
  tracks := #v[⟨0, 3⟩, ⟨3, 2⟩, ⟨5, 0⟩, ⟨5, 1⟩, ⟨6, 2⟩]
  steps := 2
  ledStepTime := 2
  eeSize := 8

/-- The image of program P1. -/
def imageP1 : Memory :=
  [(0, 0x10#8), (1, 0x20#8), (2, 0x30#8), (3, 0x40#8), (4, 0x50#8), (5, 0x60#8), (6, 0x70#8), (7, 0x80#8)]

/-- After reset, with P1's configuration and its programmed image, and two scripted edges with the button released. -/
def rested : State :=
  { State.reset with
    cfg := p1, stim := [runInput, runInput], ee := { Eeprom.atReset with mem := imageP1 }, imageProgrammed := true }

/-- In the state `q`, stopped. -/
def stoppedIn (q : SeqCode) : State := { rested with seq := q }

/-- In the state `q` of a running session of track 0, the READ open and streaming. -/
def playing (q : SeqCode) : State :=
  { rested with
    seq := q, perP := 256, perS := 8, csN := false, rem := 3
    ee := { rested.ee with mode := .data } }

/-- In a byte state of ARMED with the device in `mode`, at the state's last edge. -/
def arming (q : SeqCode) (mode : EeMode) (a : EeAddr) : State :=
  { rested with seq := q, csN := false, addr := a, wcnt := 1, ee := { rested.ee with mode := mode } }

/-- Held in reset, with a write-enabled idle device and one more scripted edge. -/
def bench : State :=
  { rested with stim := [{ btn := true, reset := some {} }, runInput], ee := { rested.ee with writeEnabled := true } }

/-! ## Well-formedness (R50, R8) -/

theorem test_wf_pp_empty : (Instr.pp 0 []).failing = some .pageProgramEmpty := by decide
theorem test_wf_pp_too_long : (Instr.pp 0 (List.replicate 129 0)).failing = some .pageProgramTooLong := by
  simp [Instr.failing]
theorem test_wf_rdsr_empty : (Instr.rdsr 0).failing = some .statusReadEmpty := by decide
theorem test_wf_pp_full_page : (Instr.pp 0 (List.replicate 128 0)).wf = true := by
  simp [Instr.wf, Instr.failing]
theorem test_wf_rdsr_one : (Instr.rdsr 1).wf = true := by decide
theorem test_wf_decoder_refuses :
    decode (.frame [0x02#8, 0, 0, 0]) = .error .badPageProgram ∧ decode (.frame [0x05#8]) = .error (.badLength 0x05#8) := by
  decide

/-- X4: the example table passes. -/
theorem test_config_x4_passes : p1.failing = none := by decide
theorem test_config_steps : ({ p1 with steps := 0 } : Params).failing = some .wfSteps := by decide
theorem test_config_lst : ({ p1 with ledStepTime := 65536 } : Params).failing = some .wfLst := by decide
theorem test_config_ps : ({ p1 with samplePeriod := 0 } : Params).failing = some .wfPs := by decide
theorem test_config_spi : ({ p1 with spiByteCycles := 0 } : Params).failing = some .wfSpi := by decide
theorem test_config_settle : ({ p1 with settleCycles := 0 } : Params).failing = some .wfSettle := by decide
/-- The configuration of State.reset passes, with `SPI_BYTE_CYCLES` at R7's default. -/
theorem test_config_reset : State.reset.cfg.failing = none ∧ State.reset.cfg.spiByteCycles = 16 := by decide
/-- R7's ranges that no check of R8 holds. -/
theorem test_config_fclk : ({ p1 with fClk := 0 } : Params).failing = some .rangeFClk := by decide
theorem test_config_eesize :
    ({ p1 with eeSize := 0, tracks := #v[⟨0, 0⟩, ⟨0, 0⟩, ⟨0, 0⟩, ⟨0, 0⟩, ⟨0, 0⟩] } : Params).failing = some .rangeEeSize := by
  decide
theorem test_config_fit : ({ p1 with eeSize := 7 } : Params).failing = some .wfFit := by decide
/-- X4: `0 + 4 > 3`. -/
theorem test_config_x4_order :
    ({ p1 with tracks := #v[⟨0, 4⟩, ⟨3, 2⟩, ⟨5, 0⟩, ⟨5, 1⟩, ⟨6, 2⟩] } : Params).failing = some .wfOrder := by
  decide

/-! ## Words written out from R49 and R53 -/

/-- S2. -/
theorem test_decode_read :
    decode (.frame [0b00000011#8, 0b00000001#8, 0b00100011#8, 0b01000101#8]) = .ok (.read 0x012345#24 0) := by decide
theorem test_decode_read_with_data :
    decode (.frame [0b00000011#8, 0, 0, 0b00000110#8, 0, 0, 0]) = .ok (.read 6 3) := by decide
/-- S9. -/
theorem test_decode_wren : decode (.frame [0b00000110#8]) = .ok .wren := by decide
/-- S10, its first two data bytes. -/
theorem test_decode_pp :
    decode (.frame [0b00000010#8, 0, 0, 0b10000000#8, 0b10000000#8, 0b10000001#8]) = .ok (.pp 0x80#24 [0x80#8, 0x81#8]) := by
  decide
/-- S11. -/
theorem test_decode_rdsr : decode (.frame [0b00000101#8, 0]) = .ok (.rdsr 1) := by decide
/-- S12. -/
theorem test_decode_rdid : decode (.frame [0b10011111#8, 0, 0, 0]) = .ok .rdid := by decide
/-- The UART's NAK is no SPI command (R51, R52). -/
theorem test_decode_unknown : decode (.frame [0x15#8, 0]) = .error (.unknownCommand 0x15#8) := by decide

theorem test_decode_armed :
    [0b00000#5, 0b00001#5, 0b00010#5, 0b00011#5, 0b00100#5, 0b00101#5, 0b00110#5].map decodeSeq =
      [.idle, .armLoad, .armCmd, .armAddr2, .armAddr1, .armAddr0, .armStart] := by decide
theorem test_decode_streaming :
    [0b00111#5, 0b01000#5, 0b01001#5, 0b01010#5, 0b01011#5].map decodeSeq =
      [.sCheck, .sFetch, .sDuty, .sLed, .sWait] := by decide
theorem test_decode_done :
    [0b01100#5, 0b01101#5, 0b01110#5, 0b01111#5, 0b10000#5].map decodeSeq =
      [.dStop, .dCsoff, .dLedon, .dAdvance, .dSettle] := by decide
theorem test_decode_illegal_low :
    [0b10001#5, 0b10010#5, 0b10011#5, 0b10100#5, 0b10101#5, 0b10110#5, 0b10111#5, 0b11000#5].map decodeSeq =
      [.illegal11, .illegal12, .illegal13, .illegal14, .illegal15, .illegal16, .illegal17, .illegal18] := by decide
theorem test_decode_illegal_high :
    [0b11001#5, 0b11010#5, 0b11011#5, 0b11100#5, 0b11101#5, 0b11110#5, 0b11111#5].map decodeSeq =
      [.illegal19, .illegal1A, .illegal1B, .illegal1C, .illegal1D, .illegal1E, .illegal1F] := by decide

theorem test_table_word_code : decodeTableWord 8 0x0B = some .sWait := by decide
theorem test_table_word_rdid : decodeTableWord 8 0x9F = some .rdid := by decide
/-- A READ word that gives its address bytes: the first byte is the least significant. -/
theorem test_table_word_read : decodeTableWord 32 0x45230103 = some (.read 0x012345#24 0) := by decide
theorem test_place_code : fetch (State.reset.withFetchWord 8 0x0F) = .instr .dAdvance := by decide
theorem test_place_frame : fetch (State.reset.withFetchWord 8 0x9F) = .instr .rdid := by decide

/-! ## SPI commands -/

/-- S4 without its draw: READ at 6 returns `EE[6]`, `EE[7]`. -/
theorem test_read_bytes : leadsTo (execRead 6 2 bench) (fun t => t.busRx.drop 4 == [0x70#8, 0x80#8]) = true := by decide
/-- S1 and S2: the address reaches the pointer. -/
theorem test_read_pointer : leadsTo (execRead 0x012345#24 0 bench) (fun t => t.ee.ptr == 0x012345#24) = true := by decide
/-- R60. -/
theorem test_wren_enables :
    leadsTo (execWren rested) (fun t => t.ee.writeEnabled && t.ee.mem == imageP1) = true := by decide
/-- R61: the device is busy, and nothing is written yet. -/
theorem test_pp_busy :
    leadsTo (execPp 2 [0xAB#8, 0xCD#8] bench)
      (fun t => t.ee.program == [(2, 0xAB#8), (3, 0xCD#8)] && t.ee.mem == imageP1) = true := by decide
/-- R61: the edge that completes the cycle has written the byte. -/
theorem test_pp_completes :
    leadsTo (step { bench with
        ee := { bench.ee with program := [(2, 0xAB#8)] }
        stim := [{ btn := true, reset := some { progDone := true } }] })
      (fun t => Memory.read t.ee.mem 2 == 0xAB#8 && t.ee.program.isEmpty) = true := by decide
/-- R61: of a page program over the array's end, the byte inside is pending with the other, and is written alone. -/
theorem test_pp_over_end :
    leadsTo (execPp 7 [1#8, 2#8] bench) (fun t => t.ee.program == [(7, 1#8), (8, 2#8)]) = true ∧
    leadsTo (step { bench with
        ee := { bench.ee with program := [(7, 1#8), (8, 2#8)] }
        stim := [{ btn := true, reset := some { progDone := true } }] })
      (fun t => Memory.read t.ee.mem 7 == 1#8 && t.ee.mem.length == 8) = true := by decide
/-- S11: bit 0 is WIP, whatever the draw. -/
theorem test_rdsr_wip (d : Byte) : (statusByte true d).getLsbD 0 = true ∧ (statusByte false d).getLsbD 0 = false := by
  constructor <;> simp [statusByte]
/-- S11: two bytes come back from a frame of two. -/
theorem test_rdsr_length : leadsTo (execRdsr 1 bench) (fun t => t.busRx.length == 2) = true := by decide
/-- S12: four bytes come back. -/
theorem test_rdid_length : leadsTo (execRdid bench) (fun t => t.busRx.length == 4) = true := by decide
/-- S5: a byte after the command 0x06 leaves the array alone, in mode OTHER. -/
theorem test_raw_wren_other :
    (eeByte 0x06#8 { rested with ee := { rested.ee with mode := .cmd } }).2.ee.mode = .other := by decide
/-- A page-program frame with no data byte, on the bus: the device goes through it, and no byte changes (log entry 12). -/
theorem test_raw_pp :
    leadsTo (step { bench with stim := [frameInput [0x02#8, 0, 0, 0]] })
      (fun t => t.ee.mem == imageP1 && t.ee.program.isEmpty && t.busRx.length == 4) = true := by decide
/-- S3: the pointer wraps modulo 2^24. -/
theorem test_pointer_wraps :
    (eeByte 0 { rested with ee := { rested.ee with mode := .data, ptr := 0xFFFFFF#24 } }).2.ee.ptr = 0 := by decide

/-! ## One edge of each state (V-SEQ, V-PWM, V-LED) -/

/-- Q1. -/
theorem test_idle_sleeps : leadsTo (execIdle rested) (fun t => t.seq == 0x00#5) = true := by decide
/-- Q1. -/
theorem test_idle_wakes : leadsTo (execIdle { rested with trigPend := true }) (fun t => t.seq == 0x01#5) = true := by decide
/-- Q2. -/
theorem test_arm_load :
    leadsTo (execArmLoad { rested with trackIdx := 3 })
      (fun t => t.addr == 5#24 && !t.csN && t.ee.mode == .cmd && t.seq == 0x02#5) = true := by decide
/-- S7: an edge before the last. -/
theorem test_arm_cmd_stays :
    leadsTo (execArmCmd { arming 0x02 .cmd 0 with wcnt := 0 }) (fun t => t.wcnt == 1 && t.seq == 0x02#5) = true := by
  decide
/-- S7: the last edge. -/
theorem test_arm_cmd_completes :
    leadsTo (execArmCmd (arming 0x02 .cmd 0)) (fun t => t.wcnt == 0 && t.seq == 0x03#5 && t.ee.mode == .addr 0) = true := by
  decide
/-- R79's example. -/
theorem test_arm_addr2 :
    leadsTo (execArmAddr2 (arming 0x03 (.addr 0) 0x012345#24)) (fun t => t.ee.abuf0 == 0x01#8 && t.seq == 0x04#5) = true := by
  decide
/-- R80's example. -/
theorem test_arm_addr1 :
    leadsTo (execArmAddr1 (arming 0x04 (.addr 1) 0x012345#24)) (fun t => t.ee.abuf1 == 0x23#8 && t.seq == 0x05#5) = true := by
  decide
/-- R81's example. -/
theorem test_arm_addr0 :
    leadsTo (execArmAddr0 { arming 0x05 (.addr 2) 0x012345#24 with
        ee := { rested.ee with mode := .addr 2, abuf0 := 0x01, abuf1 := 0x23 } })
      (fun t => t.ee.ptr == 0x012345#24 && t.ee.mode == .data && t.seq == 0x06#5) = true := by decide
/-- Q3. -/
theorem test_arm_start_led :
    leadsTo (execArmStart { arming 0x06 .data 0 with ledStep := 1, ledDir := .falling, ledTick := 1, ledOut := true })
      (fun t => t.rem == 3#24 && t.ledStep == 0 && t.ledDir == .rising && t.ledTick == 0 && t.ledOut) = true := by decide
/-- R70: counters, flag and latch. -/
theorem test_arm_start_counters :
    leadsTo (execArmStart { arming 0x06 .data 0 with cntP := 27, cntS := 3, ovf := true, cmpBuf := 0x30 })
      (fun t => t.cntP == 0 && t.perP == 256 && t.cntS == 0 && t.perS == 8 && !t.ovf && t.cmpAct == 0x30#8) = true := by
  decide
/-- Q4. -/
theorem test_check_more : leadsTo (execSCheck { playing 0x07 with rem := 1 }) (fun t => t.seq == 0x08#5) = true := by decide
/-- Q4. -/
theorem test_check_end : leadsTo (execSCheck { playing 0x07 with rem := 0 }) (fun t => t.seq == 0x0C#5) = true := by decide
/-- Q5. -/
theorem test_fetch :
    leadsTo (execSFetch { playing 0x08 with wcnt := 1, ee := { (playing 0x08).ee with ptr := 5 } })
      (fun t => t.sample == 0x60#8 && t.ee.ptr == 6#24 && t.seq == 0x09#5) = true := by decide
/-- FT1: an overflow event in S_FETCH raises LATE, not OVR. -/
theorem test_fetch_late :
    leadsTo (execSFetch { playing 0x08 with cntS := 7 }) (fun t => t.faultLate && !t.faultOvr && t.ovf) = true := by decide
/-- Q6. -/
theorem test_duty : leadsTo (execSDuty { playing 0x09 with sample := 0xFF }) (fun t => t.cmpBuf == 0xFF#8) = true := by decide
/-- R68: a wrap at the same edge takes the old value. -/
theorem test_duty_at_wrap :
    leadsTo (execSDuty { playing 0x09 with sample := 0x60, cmpBuf := 0x11, cntP := 255 })
      (fun t => t.cmpBuf == 0x60#8 && t.cmpAct == 0x11#8 && t.cntP == 0) = true := by decide
/-- R98's example. -/
theorem test_led_flips :
    leadsTo (execSLed { playing 0x0A with
        cfg := { p1 with steps := 10, ledStepTime := 500 }, ledTick := 499, ledStep := 9 })
      (fun t => t.ledTick == 0 && t.ledStep == 10 && t.ledDir == .falling) = true := by decide
/-- R99's example, LD8: the output uses the new step. -/
theorem test_led_output :
    leadsTo (execSLed { playing 0x0A with rem := 2, ledTick := 1 }) (fun t => t.ledStep == 1 && t.ledOut) = true := by decide
/-- Q8. -/
theorem test_wait_consumes :
    leadsTo (execSWait { playing 0x0B with ovf := true }) (fun t => t.rem == 2#24 && !t.ovf && t.seq == 0x07#5) = true := by
  decide
/-- Q9: an event at the same edge keeps the flag and is no OVR. -/
theorem test_wait_set_wins :
    leadsTo (execSWait { playing 0x0B with ovf := true, cntS := 7 })
      (fun t => t.rem == 2#24 && t.ovf && !t.faultOvr && t.seq == 0x07#5) = true := by decide
/-- R71: the counters still advance at this edge. -/
theorem test_stop :
    leadsTo (execDStop { playing 0x0C with cntP := 26, cntS := 2 })
      (fun t => t.perP == 0 && t.perS == 0 && t.cntP == 27 && t.cntS == 3) = true := by decide
/-- Q10. -/
theorem test_csoff : leadsTo (execDCsoff (playing 0x0D)) (fun t => t.csN && t.ee.mode == .off && t.seq == 0x0E#5) = true := by
  decide
/-- Q11. -/
theorem test_ledon : leadsTo (execDLedon (stoppedIn 0x0E)) (fun t => t.ledOut && t.seq == 0x0F#5) = true := by decide
/-- Q12. -/
theorem test_advance_wraps :
    leadsTo (execDAdvance { stoppedIn 0x0F with trackIdx := 4 }) (fun t => t.trackIdx == 0 && t.seq == 0x10#5) = true := by
  decide
/-- Q12. -/
theorem test_advance : leadsTo (execDAdvance { stoppedIn 0x0F with trackIdx := 1 }) (fun t => t.trackIdx == 2) = true := by
  decide
/-- Q13. -/
theorem test_settle_stays :
    leadsTo (execDSettle { stoppedIn 0x10 with wcnt := 1 }) (fun t => t.wcnt == 2 && t.seq == 0x10#5) = true := by decide
/-- Q13. -/
theorem test_settle_ends :
    leadsTo (execDSettle { stoppedIn 0x10 with wcnt := 2 }) (fun t => t.wcnt == 0 && t.seq == 0x00#5) = true := by decide
/-- Q14. -/
theorem test_illegal15 :
    leadsTo (step { stoppedIn 0x15 with rem := 3, addr := 5 }) (fun t => t.seq == 0x00#5 && t.rem == 3#24 && t.addr == 5#24) =
      true := by decide
/-- FT2: OVR in S_DUTY. -/
theorem test_duty_ovr :
    leadsTo (execSDuty { playing 0x09 with ovf := true, cntS := 7 }) (fun t => t.faultOvr && !t.faultLate) = true := by decide
/-- T1: a released level and then a pressed one make one pending cycle. -/
theorem test_trigger :
    leadsTo (execIdle { rested with trigQ := true, stim := [{ btn := false }] }) (fun t => t.trigPend && !t.trigQ) = true := by
  decide
/-- T2: pressed from reset on. -/
theorem test_trigger_needs_release :
    leadsTo (execIdle { rested with stim := [{ btn := false }] }) (fun t => !t.trigPend) = true := by decide
/-- RS1: reset in S_FETCH. -/
theorem test_reset_edge :
    leadsTo (step { playing 0x08 with trackIdx := 2, ledOut := true, stim := [{ btn := true, reset := some {} }] })
      (fun t => t.seq == 0x00#5 && t.trackIdx == 0 && !t.ledOut && t.csN && t.ee.mode == .off && t.ee.mem == imageP1) =
      true := by decide
/-- R69: `cmp_act = 0x80` is high at count 127, low at 128, and low when stopped. -/
theorem test_pwm :
    State.pwmOut { playing 0x0B with cmpAct := 0x80, cntP := 127 } = true ∧
    State.pwmOut { playing 0x0B with cmpAct := 0x80, cntP := 128 } = false ∧
    State.pwmOut { stoppedIn 0x00 with cmpAct := 0x80 } = false := by decide
/-- K8: an image that was never programmed is refused, and not once the bootstrap has finished at an edge with `rst = 1`. -/
theorem test_unprogrammed_image :
    step { rested with imageProgrammed := false } = .refused .unprogrammedImage ∧
    leadsTo (step { rested with imageProgrammed := false, stim := [{ btn := true, reset := some { imageDone := true } }] })
      (fun t => t.imageProgrammed) = true := ⟨rfl, by decide⟩
/-- S6: byte 0xA5 on the pins, two of its cycles. -/
theorem test_pins :
    (let s := { arming 0x03 (.addr 0) 0xA50000#24 with cfg := { p1 with spiByteCycles := 16 } }
     (State.spiSck { s with wcnt := 0 }, State.spiMosi { s with wcnt := 0 },
      State.spiSck { s with wcnt := 3 }, State.spiMosi { s with wcnt := 3 })) = (false, true, true, false) := by decide
/-- R16: the phases of S_WAIT, D_STOP and an illegal code. -/
theorem test_phase :
    (stoppedIn 0x0B).phase = 0b10#2 ∧ (stoppedIn 0x0C).phase = 0b11#2 ∧ (stoppedIn 0x11).phase = 0b00#2 := by decide
/-- X1 (LD5): the triangle of STEPS = 10. -/
theorem test_triangle : [0, 1, 9, 10, 11, 19, 20, 21].map (triangle 10) = [0, 1, 9, 10, 9, 1, 0, 1] := by decide
/-- The canonical form: a byte equal to the unlisted one is not listed. -/
theorem test_memory_canonical :
    Memory.write imageP1 0 0xFF#8 = imageP1.tail ∧ Memory.read (Memory.write imageP1 0 0xFF#8) 0 = 0xFF#8 := by decide

/-! ## Witnesses: for each obligation with hypotheses, a state that meets them -/

/-- In S_FETCH of sample 0, streaming. -/
def fetching : State := playing 0x08

/-- In S_DUTY of sample 0: the byte is in `sample`, the pointer behind it. -/
def dutying : State := { playing 0x09 with sample := 0x10, ee := { (playing 0x09).ee with ptr := 1 } }

/-- Held in reset with a program cycle running. -/
def busyBench (script : List Inputs) : State :=
  { bench with stim := script, ee := { bench.ee with program := [(2, 0xAB#8)] } }

/-- Held in reset with the programmer's `bytes` on the bus. -/
def programming (bytes : List Byte) : State := { bench with stim := [frameInput bytes] }

theorem witness_DecodeOfEncode :
    (Instr.pp 0x000080#24 [0xAA#8]).wf = true ∧ (Instr.rdsr 1).wf = true ∧ Instr.sWait.wf = true := by decide

theorem witness_DecodedFramesAreWellFormed :
    decodeFrame [0x03#8, 0, 0, 5#8, 0] = .ok (.read 5 1) ∧
    decodeFrame [0x02#8, 0, 0, 5#8, 7#8] = .ok (.pp 5 [7#8]) := by decide

theorem witness_OtherCommandBytesRejected : 0x0B#8 ∉ [0x03#8, 0x06#8, 0x02#8, 0x05#8, 0x9F#8] := by decide

theorem witness_StepRunsStateOfSeq :
    fetching.cfg.failing = none ∧ fetching.inputs.reset = none ∧ fetching.ee.program = [] ∧
    fetching.imageProgrammed = true := by decide

theorem witness_StepRunsProgrammerCommand :
    (programming [0x06#8]).cfg.failing = none ∧
    (programming [0x06#8]).inputs.reset = some { frame := some [0x06#8] } ∧
    decode (.frame [0x06#8]) = .ok .wren := by decide

theorem witness_ConfigurationRefusedByCheckName_refused :
    ({ rested with cfg := { rested.cfg with settleCycles := 0 } } : State).cfg.failing = some .wfSettle := by decide

theorem witness_ConfigurationRefusedByCheckName_admitted : rested.cfg.failing = none := by decide

/-- A busy device, an unprogrammed image, and a step. -/
theorem witness_UnreadyEepromRefusedAtRelease :
    (let s := { rested with ee := { rested.ee with program := [(2, 0#8)] } }
     s.cfg.failing = none ∧ s.inputs.reset = none ∧ s.ee.program ≠ []) ∧
    (let s := { rested with imageProgrammed := false }
     s.cfg.failing = none ∧ s.inputs.reset = none ∧ s.ee.program = [] ∧ s.imageProgrammed = false) ∧
    ∃ t, step bench = .next t :=
  ⟨by decide, by decide, next_of_leadsTo (f := fun t => t.csN) (by decide)⟩

/-- A quiet bus, and a transaction on it. -/
theorem witness_ResetEdgeGivesResetValues :
    bench.cfg.failing = none ∧ bench.inputs.reset = some {} ∧ (∃ t, step bench = .next t) ∧
    (∃ t, step (programming [0x06#8]) = .next t) :=
  ⟨by decide, by decide, next_of_leadsTo (f := fun t => t.csN) (by decide),
    next_of_leadsTo (f := fun t => t.csN) (by decide)⟩

theorem witness_ResetMeetsInvariants : p1.failing = none := by decide

theorem witness_inv_reset : State.reset.Inv := by constructor <;> decide

theorem witness_inv_fetching : fetching.Inv := by constructor <;> decide

theorem witness_streams_fetching : fetching.Streams := by constructor <;> decide

theorem witness_onRamp_fetching : fetching.OnRamp := by constructor <;> decide

theorem witness_onTime_fetching : fetching.OnTime := by constructor <;> decide

theorem witness_step_fetching : ∃ t, step fetching = .next t :=
  next_of_leadsTo (f := fun _ => true) (by decide)

theorem witness_StepKeepsRegisterInvariants : fetching.Inv ∧ ∃ t, step fetching = .next t :=
  ⟨witness_inv_fetching, witness_step_fetching⟩

theorem witness_StepKeepsStreaming : fetching.Inv ∧ fetching.Streams ∧ ∃ t, step fetching = .next t :=
  ⟨witness_inv_fetching, witness_streams_fetching, witness_step_fetching⟩

theorem witness_StepKeepsOnTime :
    fetching.Inv ∧ fetching.OnTime ∧ meetsContract fetching.cfg ∧ ∃ t, step fetching = .next t :=
  ⟨witness_inv_fetching, witness_onTime_fetching, by decide, witness_step_fetching⟩

theorem witness_StepKeepsMemoryCanonical : fetching.ee.mem.wf = true ∧ ∃ t, step fetching = .next t :=
  ⟨by decide, witness_step_fetching⟩

theorem witness_ImageStableWhileRunning : (∃ t, step fetching = .next t) ∧ fetching.inputs.reset = none :=
  ⟨witness_step_fetching, by decide⟩

theorem witness_FetchesStayInTrack : fetching.Inv ∧ fetching.Streams ∧ fetching.seq = 0x08#5 :=
  ⟨witness_inv_fetching, witness_streams_fetching, by decide⟩

theorem witness_DutyIsTrackByte :
    dutying.Inv ∧ dutying.Streams ∧ dutying.inputs.reset = none ∧ dutying.seq = 0x09#5 :=
  ⟨by constructor <;> decide, by constructor <;> decide, by decide, by decide⟩

/-- Each clause: stopped, running, and at the wrap. -/
theorem witness_CarrierCounterAdvances :
    rested.perP = 0 ∧ fetching.perP = 256 ∧ ({ fetching with cntP := 255 } : State).wrapNow := by decide

/-- Each clause: stopped, at the tick, and one edge before it. -/
theorem witness_SampleCounterAdvances :
    rested.perS = 0 ∧ ({ fetching with cntS := 7 } : State).tickNow ∧
    ({ fetching with cntS := 6 } : State).cntS.toNat + 1 < fetching.perS.toNat := by decide

/-- Each clause: an event, a clear without an event, and neither. -/
theorem witness_OverflowFlagSetWins :
    ({ fetching with cntS := 7 } : State).tickNow ∧
    (¬ (playing 0x0B).tickNow ∧ ({ playing 0x0B with ovf := true } : State).ovf = true) ∧
    ¬ fetching.tickNow := by decide

theorem witness_CompareLatchAtWrap :
    ({ fetching with cntP := 255 } : State).wrapNow ∧ ¬ ({ fetching with cntP := 254 } : State).wrapNow := by decide

theorem witness_DiagnosticBitsStickyAndUnread :
    fetching.inputs.reset = none ∧ (∃ t, step { fetching with faultLate := true, faultOvr := true } = .next t) :=
  ⟨by decide, next_of_leadsTo (f := fun t => t.faultLate && t.faultOvr) (by decide)⟩

theorem witness_EdgeOutsideIdleDiscarded : Instr.dSettle ≠ .idle := by decide

/-- The last track of the table, and with chip-select high and low. -/
theorem witness_ArmLoadOpensTransaction :
    ({ rested with trackIdx := 4 } : State).trackIdx.toNat < 5 ∧ rested.csN = true ∧ fetching.csN = false := by decide

/-- Both clauses, at the edges where they meet. -/
theorem witness_LongStatesStayThenComplete :
    (Instr.dSettle, 3, 0x00#5) ∈ longStates rested.cfg ∧
    ({ rested with wcnt := 1 } : State).wcnt.toNat < 3 - 1 ∧
    3 - 1 ≤ ({ rested with wcnt := 2 } : State).wcnt.toNat := by decide

theorem witness_ArmCmdSendsRead :
    (let s := arming 0x02 .cmd 0
     s.cfg.spiByteCycles.toNat ≤ s.wcnt.toNat + 1 ∧ s.csN = false ∧ s.ee.mode = .cmd) := by decide

/-- Each clause, the last with the first two bytes in the buffer. -/
theorem witness_AddressBytesReachDevice :
    (let s := arming 0x05 (.addr 2) 0x012345#24
     let t := { s with ee := { s.ee with abuf0 := 0x01, abuf1 := 0x23 } }
     s.cfg.spiByteCycles.toNat ≤ s.wcnt.toNat + 1 ∧ s.csN = false ∧
     (arming 0x03 (.addr 0) 0).ee.mode = .addr 0 ∧ (arming 0x04 (.addr 1) 0).ee.mode = .addr 1 ∧ t.ee.mode = .addr 2 ∧
     t.ee.abuf0 = BitVec.ofNat 8 (t.addr.toNat / 65536) ∧ t.ee.abuf1 = BitVec.ofNat 8 (t.addr.toNat / 256)) := by decide

theorem witness_ByteStatesFrame :
    (let s := arming 0x03 (.addr 0) 0
     s.cfg.spiByteCycles.toNat ≤ s.wcnt.toNat + 1 ∧ ({ s with csN := true } : State).csN = true) := by decide

theorem witness_ArmStartStartsSession : ({ rested with trackIdx := 4 } : State).trackIdx.toNat < 5 := by decide

/-- Inside the array and at its end. -/
theorem witness_FetchReadsSample :
    (let s := { fetching with wcnt := 1, ee := { fetching.ee with ptr := 7 } }
     s.cfg.spiByteCycles.toNat ≤ s.wcnt.toNat + 1 ∧ s.csN = false ∧ s.ee.mode = .data ∧ s.ee.program = [] ∧
     s.ee.ptr.toNat < s.cfg.eeSize ∧ ¬ (8#24).toNat < s.cfg.eeSize) := by decide

theorem witness_DutyWritesCompareBuffer : ({ playing 0x09 with cntP := 255 } : State).wrapNow := by decide

/-- The tick counter below and at its last value, rising to the top and falling to 0. -/
theorem witness_LedRampAndOutput :
    (let s := playing 0x0A
     s.ledTick.toNat + 1 ≠ s.cfg.ledStepTime ∧ ({ s with ledTick := 1 } : State).ledTick.toNat + 1 = s.cfg.ledStepTime ∧
     ({ s with ledStep := 1 } : State).ledStep.toNat + 1 = s.cfg.steps ∧
     ({ s with ledDir := .falling, ledStep := 1 } : State).ledStep.toNat = 1) := by decide

theorem witness_WaitConsumesTick :
    ({ playing 0x0B with ovf := true } : State).ovf = true ∧ (playing 0x0B).ovf = false := by decide

/-- With an event and without, running and stopped. -/
theorem witness_StopHaltsCounters :
    ({ playing 0x0C with cntS := 7 } : State).tickNow ∧ ¬ ({ playing 0x0C with cntS := 6 } : State).tickNow ∧
    (stoppedIn 0x0D).perP = 0 ∧ (stoppedIn 0x0D).perS = 0 ∧ (0x0D#5) ≠ 0x06#5 ∧ (0x0D#5) ≠ 0x0B#5 := by
  decide

theorem witness_SettleReturnsToIdle :
    (let s := { stoppedIn 0x10 with wcnt := 2 }
     s.cfg.settleCycles.toNat ≤ s.wcnt.toNat + 1) := by decide

theorem witness_DeviceTakesByteByMode :
    rested.ee.mode = .off ∧ (arming 0x02 .cmd 0).ee.mode = .cmd ∧ fetching.ee.mode = .data ∧
    fetching.ee.mode ≠ .off := by decide

/-- Up to the last byte of the array. -/
theorem witness_ReadCommandReturnsBytes :
    bench.ee.program = [] ∧ (6#24).toNat + 2 ≤ bench.cfg.eeSize ∧ bench.cfg.eeSize ≤ 2 ^ 24 := by decide

/-- An idle device, one that stays busy, and one whose cycle completes at the edge. -/
theorem witness_RdsrReturnsStatus :
    0 < 1 ∧ bench.ee.program = [] ∧ (busyBench [{ btn := true, reset := some {} }]).ee.program ≠ [] ∧
    (busyBench [{ btn := true, reset := some {} }]).held.progDone = false ∧
    (busyBench [{ btn := true, reset := some { progDone := true } }]).held.progDone = true := by decide

/-- Every command, and a busy device whose cycle does not complete at the edge. -/
theorem witness_CommandsFrame :
    Instr.read 6 2 ∈ [Instr.read 6 2, .wren, .rdsr 2, .rdid] ∧ Instr.rdid ≠ .wren ∧ Instr.wren ≠ .read 6 2 ∧
    (busyBench [{ btn := true, reset := some {} }]).held.progDone = false ∧
    (busyBench [{ btn := true, reset := some {} }]).ee.program ≠ [] := by decide

/-- Over the last byte of the array. -/
theorem witness_PpStartsProgramCycle :
    (Instr.pp 7 [1#8, 2#8]).wf = true ∧ (7#24).toNat / 128 = (7 + 2 - 1) / 128 ∧
    bench.ee.writeEnabled = true ∧ bench.ee.program = [] := by decide

/-- One byte inside the array, one beyond it. -/
theorem witness_PpProgramsTheArray :
    bench.cfg.failing = none ∧ bench.ee.mem.wf = true ∧ (Instr.pp 7 [1#8, 2#8]).wf = true ∧
    (7#24).toNat / 128 = (7 + 2 - 1) / 128 ∧ bench.ee.writeEnabled = true ∧ bench.ee.program = [] ∧
    (7#24).toNat + 0 < bench.cfg.eeSize ∧ bench.cfg.eeSize ≤ (7#24).toNat + 1 := by decide

/-- Without WREN, across a page, and on a busy device. -/
theorem witness_PpStaysInItsPages :
    (Instr.pp 6 [1#8, 2#8]).wf = true ∧ rested.ee.writeEnabled = false ∧
    (127#24).toNat / 128 ≠ ((127#24).toNat + 2 - 1) / 128 ∧ bench.cfg.failing = none ∧
    (busyBench [{ btn := true, reset := some {} }]).ee.program ≠ [] := by decide

/-- A command byte outside the table, READ cut short, WREN with more bytes, and PP without an address, without data and with
129 bytes. -/
theorem witness_OffTableFramesRun :
    (programming [0x0B#8]).cfg.failing = none ∧
    (programming [0x0B#8]).inputs.reset = some { frame := some [0x0B#8] } ∧
    decodeFrame [0x0B#8] = .error (.unknownCommand 0x0B#8) ∧
    (∃ e, decodeFrame [0x03#8, 1] = .error e) ∧ (∃ e, decodeFrame [0x02#8] = .error e) ∧
    decodeFrame [0x06#8, 0] = .error (.badLength 0x06#8) ∧
    decodeFrame [0x02#8, 0, 0, 5#8] = .error .badPageProgram ∧
    (Instr.pp 5 []).wf = false ∧ decodeFrame (0x02#8 :: 0 :: 0 :: 5#8 :: List.replicate 129 0) = .error .badPageProgram := by
  refine ⟨by decide, by decide, by decide, ⟨_, rfl⟩, ⟨_, rfl⟩, by decide, by decide, by decide, ?_⟩
  simp [decodeFrame, Instr.wf, Instr.failing, Cmd.read, Cmd.wren, Cmd.pp]

theorem witness_PwmHighForDutyCounts : fetching.perP ≠ 0 := by decide

theorem witness_LedStepIsTriangle :
    (1 ≤ fetching.cfg.steps ∧ fetching.cfg.steps ≤ 65535 ∧ 1 ≤ fetching.cfg.ledStepTime ∧
      fetching.cfg.ledStepTime ≤ 65535 ∧ fetching.ledStep = 0 ∧ fetching.ledDir = .rising ∧ fetching.ledTick = 0) ∧
    fetching.Inv ∧ fetching.OnRamp ∧ ∃ t, step fetching = .next t :=
  ⟨by decide, witness_inv_fetching, witness_onRamp_fetching, witness_step_fetching⟩

theorem witness_LedOnForStepSamples :
    (let s := { playing 0x0A with ledStep := 1 }
     1 ≤ s.cfg.steps ∧ s.ledStep.toNat ≤ s.cfg.steps ∧ 1 + s.cfg.steps ≤ 2 ^ 24) := by decide

theorem witness_SettleLastsSettleCycles :
    (let s := { stoppedIn 0x10 with stim := [runInput, runInput, runInput] }
     s.cfg.failing = none ∧ s.ee.program = [] ∧ s.imageProgrammed = true ∧ s.seq = 0x10#5 ∧ s.wcnt = 0 ∧
     s.cfg.settleCycles.toNat ≤ s.stim.length ∧ ∀ x ∈ s.stim.take s.cfg.settleCycles.toNat, x.reset = none) := by decide

end Sys2Proof.Tests
end

section
/-! PROOFS. Admission of a configuration (R8, R7): which checks an admitted configuration passes, and which step refuses one. -/

namespace Sys2Proof.Machine

/-- `WF_FIT`'s bound on `EE_SIZE` is said once in the model's check and once for each track in the rule's inequalities. -/
theorem checkFails_wfFit_iff (p : Params) : checkFails p .wfFit ↔ ¬ p.okFit :=
  not_congr ⟨fun h => ⟨fun i => (h i).1, (h 0).2⟩, fun ⟨hfit, hsize⟩ i => ⟨hfit i, hsize⟩⟩

/-- What every admitted configuration passes: R8's seven checks and R7's two ranges. -/
theorem failing_eq_none_iff_ok (p : Params) :
    p.failing = none ↔
      p.okSteps ∧ p.okLst ∧ p.okPs ∧ p.okSpi ∧ p.okSettle ∧ p.okFit ∧ p.okOrder ∧ p.okFClk ∧ p.okEeSize := by
  unfold Params.failing
  constructor
  · intro h
    split_ifs at h with steps lst ps spi settle fit order fClk eeSize
    exact ⟨steps, lst, ps, spi, settle, fit, order, fClk, eeSize⟩
  · rintro ⟨steps, lst, ps, spi, settle, fit, order, fClk, eeSize⟩
    rw [if_neg (not_not_intro steps), if_neg (not_not_intro lst), if_neg (not_not_intro ps), if_neg (not_not_intro spi),
      if_neg (not_not_intro settle), if_neg (not_not_intro fit), if_neg (not_not_intro order),
      if_neg (not_not_intro fClk), if_neg (not_not_intro eeSize)]

/-- An admitted configuration fails no check, in the rules' own inequalities. -/
theorem not_checkFails_of_admitted {p : Params} (h : p.failing = none) (c : ConfigCheck) : ¬ checkFails p c := by
  obtain ⟨steps, lst, ps, spi, settle, fit, order, fClk, eeSize⟩ := (failing_eq_none_iff_ok p).1 h
  cases c with
  | wfSteps => exact not_not_intro steps
  | wfLst => exact not_not_intro lst
  | wfPs => exact not_not_intro ps
  | wfSpi => exact not_not_intro spi
  | wfSettle => exact not_not_intro settle
  | wfFit => exact mt (checkFails_wfFit_iff p).1 (not_not_intro fit)
  | wfOrder => exact not_not_intro order
  | rangeFClk => exact not_not_intro fClk
  | rangeEeSize => exact not_not_intro eeSize

/-- The check that a refused configuration is named by does fail: each branch of `Params.failing` is guarded by it
(the innermost branch first below). -/
theorem checkFails_of_failing {p : Params} {c : ConfigCheck} (h : p.failing = some c) : checkFails p c := by
  unfold Params.failing at h
  split_ifs at h with steps lst ps spi settle fit order fClk eeSize <;>
    obtain rfl := Option.some.inj h
  · exact eeSize
  · exact fClk
  · exact order
  · exact (checkFails_wfFit_iff p).2 fit
  · exact settle
  · exact spi
  · exact ps
  · exact lst
  · exact steps

theorem failing_eq_none_iff_not_checkFails (p : Params) : p.failing = none ↔ ∀ c, ¬ checkFails p c :=
  ⟨not_checkFails_of_admitted, fun h =>
    Option.eq_none_iff_forall_ne_some.2 fun c hc => h c (checkFails_of_failing hc)⟩

/-- No instruction and no reset edge refuses: a step is refused exactly where its fetch is. -/
theorem step_refused_iff (s : State) (r : Refusal) : step s = .refused r ↔ fetch s = .refuse r := by
  unfold step
  cases fetch s with
  | instr i =>
    obtain ⟨t, ht⟩ := exec_completes i s
    simp [ht]
  | resetOnly => simp
  | raw bytes => simp
  | refuse r' => simp

theorem fetchRunning_ne_badConfig (s : State) (c : ConfigCheck) : fetchRunning s ≠ .refuse (.badConfig c) := by
  unfold fetchRunning
  split_ifs <;> simp

theorem fetch_badConfig_iff (s : State) (c : ConfigCheck) :
    fetch s = .refuse (.badConfig c) ↔ s.cfg.failing = some c := by
  unfold fetch
  cases s.cfg.failing with
  | some c' => simp
  | none =>
    cases s.inputs.reset with
    | none => simpa using fetchRunning_ne_badConfig s c
    | some held =>
      cases hf : held.frame with
      | none => simp [hf]
      | some bytes => cases hd : decodeFrame bytes <;> simp [hf, hd]

/-- A step is refused by the name of a check exactly when admission names that check. -/
theorem step_badConfig_iff (s : State) (c : ConfigCheck) :
    step s = .refused (.badConfig c) ↔ s.cfg.failing = some c :=
  (step_refused_iff s _).trans (fetch_badConfig_iff s c)

/-- Settles O7: admission asks R8's checks and R7's ranges one by one, and a step is refused as a configuration exactly by the
name of the check that admission answers. -/
theorem configurationRefusedByCheckName : Obligations.ConfigurationRefusedByCheckName := fun s =>
  ⟨failing_eq_none_iff_not_checkFails s.cfg,
    fun hadm c hstep => by simp [(step_badConfig_iff s c).1 hstep] at hadm,
    fun c hc => ⟨checkFails_of_failing hc, (step_badConfig_iff s c).2 hc⟩⟩

end Sys2Proof.Machine
end

section
/-! PROOFS. The EEPROM pointer of a fetch (R132): the sample's position lies in the track, and the track in the array, so the
24-bit pointer does not wrap. -/

namespace Sys2Proof.Machine

theorem trackEntry_of_le_four (p : Params) {i : BitVec 3} (h : i.toNat ≤ 4) :
    trackEntry p i = p.tracks[i.toNat] :=
  dif_pos (Nat.lt_succ_of_le h)

/-- The current track ends inside the array, whose addresses have 24 bits (R8, R18). -/
theorem State.Inv.track_fits {s : State} (hinv : s.Inv) :
    s.track.start.toNat + s.track.length.toNat ≤ s.cfg.eeSize ∧ s.cfg.eeSize ≤ 2 ^ 24 := by
  obtain ⟨-, -, -, -, -, ⟨hfit, hsize⟩, -⟩ := (failing_eq_none_iff_ok s.cfg).1 hinv.admitted
  refine ⟨?_, hsize⟩
  rw [State.track, trackEntry_of_le_four s.cfg hinv.trackLegal]
  exact hfit ⟨s.trackIdx.toNat, Nat.lt_succ_of_le hinv.trackLegal⟩

/-- From S_FETCH to S_WAIT at least one sample remains, so the position is that of a sample of the track (R20, R40). -/
theorem State.Inv.position_lt {s : State} (hinv : s.Inv) (hstr : s.Streams) (hseq : s.seqIn 0x08 0x0B) :
    s.position < s.track.length.toNat := by
  have hrem : s.rem.toNat ≠ 0 := fun h => hinv.remaining hseq (BitVec.eq_of_toNat_eq h)
  have hcount : s.rem.toNat ≤ s.track.length.toNat := hstr.count ⟨by omega, by omega⟩
  unfold State.position
  omega

/-- At a fetch the pointer stands at the track's byte of the current position (R40), without wrapping. -/
theorem State.Inv.ptr_toNat_at_fetch {s : State} (hinv : s.Inv) (hstr : s.Streams) (hseq : s.seq = 0x08#5) :
    s.ee.ptr.toNat = s.track.start.toNat + s.position := by
  have hpos : s.position < s.track.length.toNat := hinv.position_lt hstr (by rw [State.seqIn, hseq]; decide)
  obtain ⟨hfit, hsize⟩ := hinv.track_fits
  rw [hstr.pointer (by rw [State.seqIn, hseq]; decide), BitVec.toNat_add, BitVec.toNat_ofNat, Nat.add_mod_mod]
  exact Nat.mod_eq_of_lt (by omega)

/-- Settles O16: the pointer is the track's start plus the position, which lies below the track's length. -/
theorem fetchesStayInTrack : Obligations.FetchesStayInTrack := by
  intro s hinv hstr hseq
  have hptr := hinv.ptr_toNat_at_fetch hstr hseq
  have hpos : s.position < s.track.length.toNat := hinv.position_lt hstr (by rw [State.seqIn, hseq]; decide)
  exact ⟨by omega, by omega, hinv.track_fits.1⟩

end Sys2Proof.Machine
end

section
/-! PROOFS. The invariants I1 to I8 of R32 at reset and under every step: one rule for each kind of write, then the state rules
one by one, and the reset edge. -/

namespace Sys2Proof.Machine

/-! ## The registers the invariants speak of -/

/-- The registers that `State.Inv` reads; every other field at its value of `State.reset`. -/
def State.invView (s : State) : State :=
  { State.reset with
    cfg := s.cfg, seq := s.seq, wcnt := s.wcnt, trackIdx := s.trackIdx, rem := s.rem, perP := s.perP, cntS := s.cntS
    perS := s.perS, ledStep := s.ledStep, ledDir := s.ledDir, ledTick := s.ledTick, csN := s.csN }

theorem inv_invView_iff (s : State) : s.invView.Inv ↔ s.Inv := ⟨fun h => { h with }, fun h => { h with }⟩

/-- Writes to registers that no invariant reads keep the invariants. -/
theorem State.Inv.congr {s t : State} (h : s.Inv) (hview : t.invView = s.invView) : t.Inv :=
  (inv_invView_iff t).1 (hview ▸ (inv_invView_iff s).2 h)

/-! ## Reset -/

/-- The reset values meet every invariant under an admitted configuration, which has `STEPS` and `LED_STEP_TIME` above 0. -/
theorem inv_reset {p : Params} (hp : p.failing = none) : State.Inv { State.reset with cfg := p } := by
  obtain ⟨⟨hsteps, -⟩, ⟨hlst, -⟩, -⟩ := (failing_eq_none_iff_ok p).1 hp
  exact
    { admitted := hp
      seqLegal := Nat.zero_le _
      trackLegal := Nat.zero_le _
      periods := .inl ⟨rfl, rfl⟩
      running := by simp [State.seqIn, State.reset]
      selected := by simp [State.seqIn, State.reset]
      ramp := ⟨fun _ => hsteps, nofun, Nat.zero_le _⟩
      tick := hlst
      waits := fun _ => rfl
      remaining := by simp [State.seqIn, State.reset]
      sampleCount := fun hne => absurd rfl hne }

theorem ResetShape.inv {s t : State} (h : ResetShape s t) (hadm : s.cfg.failing = none) : t.Inv := by
  refine (inv_reset hadm).congr ?_
  rw [h.1]
  rfl

/-! ## One rule for each kind of write -/

/-- The codes of the states that count cycles: outside them `wcnt` is 0 (I8, R75). -/
abbrev countsCycles (q : SeqCode) : Prop :=
  (0x02 ≤ q.toNat ∧ q.toNat ≤ 0x05) ∨ q = Code.sFetch ∨ q = Code.dSettle

/-- The codes at which a sample is in hand: S_FETCH to S_WAIT (R20). -/
abbrev sampleInHand (q : SeqCode) : Prop := 0x08 ≤ q.toNat ∧ q.toNat ≤ 0x0B

/-- The codes with running counters (I4). -/
abbrev countersRun (q : SeqCode) : Prop := 0x07 ≤ q.toNat ∧ q.toNat ≤ 0x0C

/-- The codes with chip-select asserted (I5). -/
abbrev selects (q : SeqCode) : Prop := 0x02 ≤ q.toNat ∧ q.toNat ≤ 0x0D

/-- From `p` to a legal code `q`, neither entering nor leaving the states with running counters or with chip-select
asserted. -/
abbrev staysInZones (p q : SeqCode) : Prop :=
  q.toNat ≤ 0x10 ∧ (countersRun p ↔ countersRun q) ∧ (selects p ↔ selects q)

section
variable {u : State} {p q : SeqCode}

theorem State.Inv.wcnt_eq_zero (h : u.Inv) (hp : u.seq = p) (hone : ¬ countsCycles p) : u.wcnt = 0 := by
  subst hp
  exact h.waits hone

theorem State.Inv.rem_ne_zero (h : u.Inv) (hp : u.seq = p) (hhand : sampleInHand p) : u.rem ≠ 0 := by
  subst hp
  exact h.remaining hhand

theorem State.Inv.running_iff (h : u.Inv) (hp : u.seq = p) : u.perP ≠ 0 ↔ countersRun p := hp ▸ h.running

theorem State.Inv.selected_iff (h : u.Inv) (hp : u.seq = p) : u.csN = false ↔ selects p := hp ▸ h.selected

/-- The sequencer arrives at a legal code `q`, with what the move writes to `wcnt`, `rem` and `cs_n`. -/
theorem State.Inv.arrive (h : u.Inv) {w : BitVec 32} {r : BitVec 24} {c : Bool} (hlegal : q.toNat ≤ 0x10)
    (hrun : u.perP ≠ 0 ↔ countersRun q) (hsel : c = false ↔ selects q) (hwcnt : ¬ countsCycles q → w = 0)
    (hrem : sampleInHand q → r ≠ 0) : State.Inv { u with seq := q, wcnt := w, rem := r, csN := c } :=
  { h with seqLegal := hlegal, running := hrun, selected := hsel, waits := hwcnt, remaining := hrem }

/-- A move inside the zones of I4 and I5. -/
theorem State.Inv.move (h : u.Inv) {w : BitVec 32} {r : BitVec 24} (hp : u.seq = p) (hzones : staysInZones p q)
    (hwcnt : ¬ countsCycles q → w = 0) (hrem : sampleInHand q → r ≠ 0) :
    State.Inv { u with seq := q, wcnt := w, rem := r } := by
  obtain ⟨hlegal, hrun, hsel⟩ := hzones
  exact h.arrive hlegal ((h.running_iff hp).trans hrun) ((h.selected_iff hp).trans hsel) hwcnt hrem

/-- A move from a state that lasts one edge, whose `wcnt` is 0. -/
theorem State.Inv.goto (h : u.Inv) (hp : u.seq = p) (hone : ¬ countsCycles p) (hzones : staysInZones p q)
    (hrem : sampleInHand q → u.rem ≠ 0) : State.Inv { u with seq := q } :=
  h.move hp hzones (fun _ => h.wcnt_eq_zero hp hone) hrem

end

/-- A running sample counter stays below its period (R24, R65). -/
theorem nextCntS_lt {s : State} (hper : s.perS ≠ 0) : (nextCntS s).toNat < s.perS.toNat := by
  have hpos : 0 < s.perS.toNat := Nat.pos_of_ne_zero fun h => hper (BitVec.eq_of_toNat_eq h)
  rw [nextCntS, if_pos hper, BitVec.toNat_ofNat]
  exact (Nat.mod_le _ _).trans_lt (Nat.mod_lt _ hpos)

/-- The edge rules write no register of the invariants but `cnt_s` (R65). -/
theorem State.Inv.clockEdge {s : State} (h : s.Inv) (q : SeqCode) : (clockEdge q s).Inv :=
  { h with sampleCount := fun hper => nextCntS_lt (s := s) hper }

/-- A state of several cycles keeps the invariants when its completion does, from `wcnt = 0` on (R75). -/
theorem State.Inv.multiCycle {s : State} (h : s.Inv) {q : SeqCode} {cost : BitVec 32} {f : State → State}
    (hs : s.seq = q) (hq : countsCycles q) (hf : ∀ u : State, u.Inv → u.seq = q → u.wcnt = 0 → (f u).Inv) :
    (multiCycle cost q f s).Inv := by
  have edge (w : BitVec 32) : State.Inv { Machine.clockEdge q s with wcnt := w } :=
    { h.clockEdge q with waits := fun hn => absurd (hs.symm ▸ hq : countsCycles s.seq) hn }
  rcases multiCycle_cases cost q f s with ⟨-, hstay⟩ | ⟨-, hdone⟩
  · rw [hstay]
    exact edge _
  · rw [hdone]
    exact hf _ (edge 0) hs rfl

/-- A byte state of ARMED goes on inside the zones once its byte is sent (R78 to R81). -/
theorem State.Inv.sendByte {s : State} (h : s.Inv) {q next : SeqCode} (tx : Byte) (hs : s.seq = q)
    (hq : countsCycles q) (hzones : staysInZones q next) (hnext : ¬ sampleInHand next) :
    (sendByte q tx next s).Inv := by
  refine h.multiCycle hs hq fun u hu hseq hwcnt => ?_
  refine (hu.move (r := u.rem) hseq hzones (fun _ => hwcnt) (absurd · hnext)).congr ?_
  dsimp only
  rw [(spiXfer_onBus tx u).rest]
  rfl

/-- `(track_idx + 1) mod 5` is an index of the table (I2, R91). -/
theorem nextTrack_le_four (i : BitVec 3) : (nextTrack i).toNat ≤ 4 := by
  revert i
  decide

/-- The LED ramp keeps its step within 0..STEPS, with the direction turned at both ends (I6), and its tick below LED_STEP_TIME
(I7) (R98). -/
theorem State.Inv.ledRampStep {u : State} (h : u.Inv) : (ledRampStep u).Inv := by
  obtain ⟨⟨hsteps, hsteps'⟩, ⟨hlst, hlst'⟩, -⟩ := (failing_eq_none_iff_ok u.cfg).1 h.admitted
  obtain ⟨hrising, hfalling, hle⟩ := h.ramp
  have htick := h.tick
  unfold Machine.ledRampStep
  split
  · cases hdir : u.ledDir with
    | rising =>
      have hlt := hrising hdir
      have hup : (u.ledStep + 1).toNat = u.ledStep.toNat + 1 :=
        BitVec.toNat_add_of_lt (show u.ledStep.toNat + 1 < 2 ^ 16 by omega)
      refine { h with tick := hlst, ramp := ?_ }
      dsimp only
      rw [hup]
      split_ifs with htop
      · exact ⟨nofun, fun _ => by omega, by omega⟩
      · exact ⟨fun _ => by omega, nofun, by omega⟩
    | falling =>
      have hpos := hfalling hdir
      have hdown : (u.ledStep - 1).toNat = u.ledStep.toNat - 1 :=
        BitVec.toNat_sub_of_le (BitVec.le_def.2 hpos)
      refine { h with tick := hlst, ramp := ?_ }
      dsimp only
      split_ifs with hbottom
      · rw [hbottom]
        exact ⟨fun _ => hsteps, nofun, Nat.zero_le _⟩
      · have hne : (u.ledStep - 1).toNat ≠ 0 := fun hz => hbottom (BitVec.eq_of_toNat_eq hz)
        exact ⟨nofun, fun _ => by omega, by omega⟩
  · next hmore =>
    refine { h with tick := ?_ }
    have hup : (u.ledTick + 1).toNat = u.ledTick.toNat + 1 :=
      BitVec.toNat_add_of_lt (show u.ledTick.toNat + 1 < 2 ^ 16 by omega)
    change (u.ledTick + 1).toNat < u.cfg.ledStepTime
    omega

theorem ledRampStep_seq (u : State) : (ledRampStep u).seq = u.seq := by
  rw [ledRampStep_eq]

/-! ## The state rules -/

theorem State.Inv.execIdle {s : State} (h : s.Inv) (hs : s.seq = Code.idle) :
    ∃ t, execIdle s = .next t ∧ t.Inv := by
  refine ⟨_, rfl, ?_⟩
  split
  · exact (h.clockEdge _).goto hs (by decide) (by decide) (absurd · (by decide))
  · exact (h.clockEdge _).goto hs (by decide) (by decide) (absurd · (by decide))

/-- ARM_LOAD asserts chip-select as it enters the selected states (R77, I5). -/
theorem State.Inv.execArmLoad {s : State} (h : s.Inv) (hs : s.seq = Code.armLoad) :
    ∃ t, execArmLoad s = .next t ∧ t.Inv := by
  refine ⟨_, rfl, ?_⟩
  rw [setCs_eq]
  exact ((h.clockEdge Code.armLoad).arrive (q := Code.armCmd) (w := 0) (r := s.rem) (c := false) (by decide)
    ((h.running_iff hs).trans (by decide)) (by decide) (fun _ => rfl) (absurd · (by decide))).congr rfl

/-- ARM_START starts both counters as it enters the running states (R70, R82, I3, I4). -/
theorem State.Inv.execArmStart {s : State} (h : s.Inv) (hs : s.seq = Code.armStart) :
    ∃ t, execArmStart s = .next t ∧ t.Inv := by
  refine ⟨_, rfl, ?_⟩
  obtain ⟨⟨hsteps, -⟩, ⟨hlst, -⟩, ⟨hps, hps'⟩, -⟩ := (failing_eq_none_iff_ok s.cfg).1 h.admitted
  have hperS : (BitVec.ofNat 16 s.cfg.samplePeriod).toNat = s.cfg.samplePeriod :=
    (BitVec.toNat_ofNat _ _).trans (Nat.mod_eq_of_lt (by omega))
  exact { h with
    seqLegal := by simp
    periods := .inr ⟨rfl, hperS⟩
    running := by simp [State.seqIn]
    selected := (h.selected_iff hs).trans (by decide : selects Code.armStart ↔ selects Code.sCheck)
    ramp := ⟨fun _ => hsteps, nofun, Nat.zero_le _⟩
    tick := hlst
    waits := fun _ => h.wcnt_eq_zero hs (by decide)
    remaining := by simp [State.seqIn]
    sampleCount := fun _ => hperS.symm ▸ hps }

/-- S_CHECK goes to S_FETCH only with a sample left (R83, R20). -/
theorem State.Inv.execSCheck {s : State} (h : s.Inv) (hs : s.seq = Code.sCheck) :
    ∃ t, execSCheck s = .next t ∧ t.Inv := by
  refine ⟨_, rfl, ?_⟩
  split
  · exact (h.clockEdge _).goto hs (by decide) (by decide) (absurd · (by decide))
  · next hrem => exact (h.clockEdge _).goto hs (by decide) (by decide) fun _ => hrem

theorem State.Inv.execSFetch {s : State} (h : s.Inv) (hs : s.seq = Code.sFetch) :
    ∃ t, execSFetch s = .next t ∧ t.Inv := by
  refine ⟨_, rfl, h.multiCycle hs (by decide) fun u hu hseq hwcnt => ?_⟩
  refine (hu.move (q := Code.sDuty) hseq (by decide) (fun _ => hwcnt) fun _ => hu.rem_ne_zero hseq (by decide)).congr ?_
  dsimp only
  rw [(spiXfer_onBus dummyTx u).rest]
  rfl

theorem State.Inv.execSDuty {s : State} (h : s.Inv) (hs : s.seq = Code.sDuty) :
    ∃ t, execSDuty s = .next t ∧ t.Inv := by
  refine ⟨_, rfl, ?_⟩
  exact ((h.clockEdge Code.sDuty).goto (q := Code.sLed) hs (by decide) (by decide)
    fun _ => h.rem_ne_zero hs (by decide)).congr rfl

/-- S_LED steps the ramp; the LED output is read by no invariant (R86). -/
theorem State.Inv.execSLed {s : State} (h : s.Inv) (hs : s.seq = Code.sLed) :
    ∃ t, execSLed s = .next t ∧ t.Inv := by
  refine ⟨_, rfl, ?_⟩
  have hled := (h.clockEdge Code.sLed).ledRampStep
  have hseq := (ledRampStep_seq (Machine.clockEdge Code.sLed s)).trans hs
  exact (hled.goto (q := Code.sWait) hseq (by decide) (by decide) fun _ => hled.rem_ne_zero hseq (by decide)).congr rfl

/-- S_WAIT counts a sample off only on its way out of the states with a sample in hand (R87, R20). -/
theorem State.Inv.execSWait {s : State} (h : s.Inv) (hs : s.seq = Code.sWait) :
    ∃ t, execSWait s = .next t ∧ t.Inv := by
  refine ⟨_, rfl, ?_⟩
  split
  · exact (h.clockEdge _).move hs (by decide) (fun _ => h.wcnt_eq_zero hs (by decide)) (absurd · (by decide))
  · exact (h.clockEdge _).goto hs (by decide) (by decide) fun _ => h.rem_ne_zero hs (by decide)

/-- D_STOP stops both counters as it leaves the running states (R88, I3, I4). -/
theorem State.Inv.execDStop {s : State} (h : s.Inv) (hs : s.seq = Code.dStop) :
    ∃ t, execDStop s = .next t ∧ t.Inv := by
  refine ⟨_, rfl, ?_⟩
  exact { h with
    seqLegal := by simp
    periods := .inl ⟨rfl, rfl⟩
    running := by simp [State.seqIn]
    selected := (h.selected_iff hs).trans (by decide : selects Code.dStop ↔ selects Code.dCsoff)
    waits := fun _ => h.wcnt_eq_zero hs (by decide)
    remaining := by simp [State.seqIn]
    sampleCount := fun hne => absurd rfl hne }

/-- D_CSOFF deasserts chip-select as it leaves the selected states (R89, I5). -/
theorem State.Inv.execDCsoff {s : State} (h : s.Inv) (hs : s.seq = Code.dCsoff) :
    ∃ t, execDCsoff s = .next t ∧ t.Inv := by
  refine ⟨_, rfl, ?_⟩
  rw [setCs_eq]
  exact ((h.clockEdge Code.dCsoff).arrive (q := Code.dLedon) (w := s.wcnt) (r := s.rem) (c := true) (by decide)
    ((h.running_iff hs).trans (by decide)) (by decide) (fun _ => h.wcnt_eq_zero hs (by decide))
    (absurd · (by decide))).congr rfl

theorem State.Inv.execDLedon {s : State} (h : s.Inv) (hs : s.seq = Code.dLedon) :
    ∃ t, execDLedon s = .next t ∧ t.Inv := by
  refine ⟨_, rfl, ?_⟩
  exact ((h.clockEdge Code.dLedon).goto (q := Code.dAdvance) hs (by decide) (by decide)
    (absurd · (by decide))).congr rfl

theorem State.Inv.execDAdvance {s : State} (h : s.Inv) (hs : s.seq = Code.dAdvance) :
    ∃ t, execDAdvance s = .next t ∧ t.Inv := by
  refine ⟨_, rfl, ?_⟩
  exact { (h.clockEdge Code.dAdvance).move (q := Code.dSettle) (w := 0) (r := s.rem) hs (by decide) (fun _ => rfl)
      (absurd · (by decide)) with
    trackLegal := nextTrack_le_four s.trackIdx }

theorem State.Inv.execDSettle {s : State} (h : s.Inv) (hs : s.seq = Code.dSettle) :
    ∃ t, execDSettle s = .next t ∧ t.Inv :=
  ⟨_, rfl, h.multiCycle hs (by decide) fun _ hu hseq hwcnt =>
    hu.move hseq (by decide) (fun _ => hwcnt) (absurd · (by decide))⟩

/-- The state rule of `seq` keeps the invariants; an illegal code is excluded by I1. -/
theorem State.Inv.exec_seq {s : State} (h : s.Inv) : ∃ t, exec (decodeSeq s.seq) s = .next t ∧ t.Inv := by
  have hlegal := h.seqLegal
  rcases seqCode_cases s.seq with (hs | hs | hs | hs | hs | hs | hs) | (hs | hs | hs | hs | hs) |
    (hs | hs | hs | hs | hs) | hs
  case inr.inr.inr => exact absurd (BitVec.le_def.1 hs) (Nat.not_le_of_lt (Nat.lt_succ_of_le hlegal))
  all_goals rw [hs]
  · exact h.execIdle hs
  · exact h.execArmLoad hs
  · exact ⟨_, rfl, h.sendByte _ hs (by decide) (by decide) (by decide)⟩
  · exact ⟨_, rfl, h.sendByte _ hs (by decide) (by decide) (by decide)⟩
  · exact ⟨_, rfl, h.sendByte _ hs (by decide) (by decide) (by decide)⟩
  · exact ⟨_, rfl, h.sendByte _ hs (by decide) (by decide) (by decide)⟩
  · exact h.execArmStart hs
  · exact h.execSCheck hs
  · exact h.execSFetch hs
  · exact h.execSDuty hs
  · exact h.execSLed hs
  · exact h.execSWait hs
  · exact h.execDStop hs
  · exact h.execDCsoff hs
  · exact h.execDLedon hs
  · exact h.execDAdvance hs
  · exact h.execDSettle hs

/-- Settles O11: with `rst = 0` the state rule of `seq` keeps the invariants, with `rst = 1` the reset edge sets them up. -/
theorem stepKeepsRegisterInvariants : Obligations.StepKeepsRegisterInvariants := by
  intro s t hinv hstep
  rcases step_shape hstep with ⟨-, hexec, -⟩ | ⟨-, hreset⟩
  · obtain ⟨u, hu, hkeep⟩ := hinv.exec_seq
    obtain rfl : u = t := Host.Outcome.next.inj (hu.symm.trans hexec)
    exact hkeep
  · exact hreset.inv hinv.admitted

end Sys2Proof.Machine
end

section
/-! PROOFS. Reset: what the other invariants ask in IDLE, and the registers after an edge with `rst = 1` (R33, R121). The port
`phase` (R16). -/

namespace Sys2Proof.Machine

/-! ## The invariants in IDLE -/

theorem not_seqIn_of_idle {s : State} (hidle : s.seq = Code.idle) {lo hi : Nat} (hlo : 0 < lo) : ¬ s.seqIn lo hi := by
  rintro ⟨h, -⟩
  rw [hidle] at h
  exact absurd h (Nat.not_le_of_lt hlo)

theorem seq_ne_of_idle {s : State} (hidle : s.seq = Code.idle) {q : SeqCode} (hq : Code.idle ≠ q) : s.seq ≠ q :=
  hidle ▸ hq

/-- In IDLE no READ is open, so the engine and the device agree once the mode is OFF (R44). -/
theorem streams_of_idle {s : State} (hidle : s.seq = Code.idle) (hoff : s.ee.mode = .off) : s.Streams where
  ready h := absurd hidle h
  closed _ := hoff
  atCmd h := absurd h (seq_ne_of_idle hidle (by decide))
  atAddr2 h := absurd h (seq_ne_of_idle hidle (by decide))
  atAddr1 h := absurd h (seq_ne_of_idle hidle (by decide))
  atAddr0 h := absurd h (seq_ne_of_idle hidle (by decide))
  streaming h := absurd h (not_seqIn_of_idle hidle (by decide))
  address h := absurd h (not_seqIn_of_idle hidle (by decide))
  atStart h := absurd h (seq_ne_of_idle hidle (by decide))
  count h := absurd h (not_seqIn_of_idle hidle (by decide))
  pointer h := absurd h (not_seqIn_of_idle hidle (by decide))
  pointerNext h := absurd h (not_seqIn_of_idle hidle (by decide))
  fetched h := absurd h (not_seqIn_of_idle hidle (by decide))
  written h := absurd h (not_seqIn_of_idle hidle (by decide))

/-- In IDLE the timing contract only asks for clear diagnostic bits (R128). -/
theorem onTime_of_idle {s : State} (hidle : s.seq = Code.idle) (hlate : s.faultLate = false)
    (hovr : s.faultOvr = false) : s.OnTime where
  late := hlate
  ovr := hovr
  check h := absurd h (seq_ne_of_idle hidle (by decide))
  fetch h := absurd h (seq_ne_of_idle hidle (by decide))
  duty h := absurd h (seq_ne_of_idle hidle (by decide))
  led h := absurd h (seq_ne_of_idle hidle (by decide))
  wait h := absurd h (seq_ne_of_idle hidle (by decide))

/-- In IDLE no session is under way, so the ramp need not stand on the triangle (R101). -/
theorem onRamp_of_idle {s : State} (hidle : s.seq = Code.idle) : s.OnRamp where
  count h := absurd h (not_seqIn_of_idle hidle (by decide))
  step h := absurd h (not_seqIn_of_idle hidle (by decide))
  tick h := absurd h (not_seqIn_of_idle hidle (by decide))
  dir h := absurd h (not_seqIn_of_idle hidle (by decide))

/-- Settles O10: the reset state is in IDLE, with the device in OFF, clear diagnostic bits and an empty array. -/
theorem resetMeetsInvariants : Obligations.ResetMeetsInvariants := fun _ hadm =>
  ⟨inv_reset hadm, streams_of_idle rfl rfl, onTime_of_idle rfl rfl rfl, onRamp_of_idle rfl, Memory.wf_reset⟩

/-! ## The reset edge -/

theorem State.held_of_reset {s : State} {held : Held} (hr : s.inputs.reset = some held) : s.held = held := by
  rw [State.held, hr, Option.getD_some]

/-- Every edge with `rst = 1` under an admitted configuration completes with the shape of a reset edge, whatever is on the
bus. -/
theorem step_resetShape {s : State} {held : Held} (hadm : s.cfg.failing = none) (hr : s.inputs.reset = some held) :
    ∃ t, step s = .next t ∧ ResetShape s t := by
  unfold step fetch
  cases hf : held.frame with
  | none => exact ⟨_, by simp [hadm, hr, hf], resetEdge_shape s⟩
  | some bytes =>
    cases hd : decodeFrame bytes with
    | ok i =>
      obtain ⟨t, ht, hshape⟩ := exec_command_shape hd s
      exact ⟨t, by simpa [hadm, hr, hf, hd] using ht, hshape⟩
    | error e => exact ⟨_, by simp [hadm, hr, hf, hd], rawFrame_shape bytes s⟩

/-- The reset edge leaves the array alone unless a program cycle completes there (R33, R61). -/
theorem resetEdge_mem {s : State} (hrunning : s.held.progDone = false) : (resetEdge s).ee.mem = s.ee.mem := by
  simp [Eeprom.atResetEdge, hrunning]

/-- Settles O9: such an edge has the shape of a reset edge, which resets every register of the block and keeps the rest. -/
theorem resetEdgeGivesResetValues : Obligations.ResetEdgeGivesResetValues := by
  intro s held hadm hr
  obtain ⟨t, hstep, hregs, hmem, hoff⟩ := step_resetShape hadm hr
  refine ⟨t, hstep, ?_⟩
  have hheld := State.held_of_reset hr
  have hkept : held.progDone = false → t.ee.mem = s.ee.mem := fun hrunning =>
    hmem.trans (resetEdge_mem (hheld ▸ hrunning))
  generalize t.ee = ee, t.busRx = busRx, t.draws = draws at hregs hoff hkept
  subst hregs
  simpa [State.reset, hoff, hheld] using hkept

/-! ## The port `phase` -/

/-- R16's table, at each of the 32 codes. -/
theorem phaseBits_phaseOf (q : SeqCode) :
    phaseBits (phaseOf q) =
      if q.toNat = 0 then 0b00#2 else if q.toNat ≤ 0x06 then 0b01#2 else if q.toNat ≤ 0x0B then 0b10#2
        else if q.toNat ≤ 0x10 then 0b11#2 else 0b00#2 := by
  revert q
  decide

/-- Settles O56: the port is R16's table at the code of `seq`. -/
theorem phaseFollowsCode : Obligations.PhaseFollowsCode := fun s => phaseBits_phaseOf s.seq

end Sys2Proof.Machine
end

section
/-! PROOFS. The EEPROM takes one byte (R46): the rule of each mode, the engine's exchange under chip-select, and what a byte
state writes at its last edge (R75). -/

namespace Sys2Proof.Machine

/-! ## One byte, mode by mode -/

section
variable {s : State} (tx : Byte)

/-- In OFF the device ignores the bus (R44). -/
theorem eeByte_off (hmode : s.ee.mode = .off) : eeByte tx s = drawByte s := by
  rw [eeByte, hmode]

theorem eeByte_cmd (hmode : s.ee.mode = .cmd) :
    eeByte tx s = (Config.freeByte s.draws,
      { (drawByte s).2 with ee := { s.ee with mode := if tx = Cmd.read then .addr 0 else .other } }) := by
  rw [eeByte, hmode]
  rfl

theorem eeByte_addr0 (hmode : s.ee.mode = .addr 0) :
    eeByte tx s = (Config.freeByte s.draws,
      { (drawByte s).2 with ee := { s.ee with abuf0 := tx, mode := .addr 1 } }) := by
  rw [eeByte, hmode]
  rfl

theorem eeByte_addr1 (hmode : s.ee.mode = .addr 1) :
    eeByte tx s = (Config.freeByte s.draws,
      { (drawByte s).2 with ee := { s.ee with abuf1 := tx, mode := .addr 2 } }) := by
  rw [eeByte, hmode]
  rfl

theorem eeByte_addr2 (hmode : s.ee.mode = .addr 2) :
    eeByte tx s = (Config.freeByte s.draws,
      { (drawByte s).2 with ee := { s.ee with
        abuf2 := tx, ptr := joinAddr s.ee.abuf0 s.ee.abuf1 tx, mode := .data } }) := by
  rw [eeByte, hmode]
  rfl

theorem eeByte_data (hmode : s.ee.mode = .data) :
    eeByte tx s = ((memRead s.ee.ptr s).1,
      { (memRead s.ee.ptr s).2 with ee := { s.ee with ptr := s.ee.ptr + 1 } }) := by
  rw [eeByte, hmode]

theorem eeByte_other (hmode : s.ee.mode = .other) : eeByte tx s = drawByte s := by
  rw [eeByte, hmode]

/-- Outside DATA the returned byte is the next draw. -/
theorem eeByte_draws (hmode : s.ee.mode ≠ .data) :
    (eeByte tx s).1 = Config.freeByte s.draws ∧ (eeByte tx s).2.draws = s.draws + 1 := by
  unfold eeByte
  split
  case h_6 hdata => exact absurd hdata hmode
  all_goals exact ⟨rfl, rfl⟩

end

/-- The reassembled address as a number, most significant byte first (R35). -/
theorem joinAddr_eq_ofNat (b2 b1 b0 : Byte) :
    joinAddr b2 b1 b0 = BitVec.ofNat 24 (b2.toNat * 65536 + b1.toNat * 256 + b0.toNat) := by
  have h1 := b1.isLt
  have h0 := b0.isLt
  apply BitVec.eq_of_toNat_eq
  rw [joinAddr, BitVec.toNat_append, BitVec.toNat_append, ← Nat.shiftLeft_add_eq_or_of_lt h0,
    ← Nat.shiftLeft_add_eq_or_of_lt h1]
  simp only [Nat.shiftLeft_eq, BitVec.toNat_ofNat]
  omega

/-- Settles O46: the rule of each mode, with the address and the pointer as numbers. -/
theorem deviceTakesByteByMode : Obligations.DeviceTakesByteByMode := by
  intro tx s
  refine ⟨eeByte_draws tx, ?_, ?_, ?_, ?_, ?_, ?_⟩
  · rintro (hoff | hother)
    · rw [eeByte_off tx hoff, drawByte_ee]
    · rw [eeByte_other tx hother, drawByte_ee]
  · intro hcmd
    rw [eeByte_cmd tx hcmd]
  · intro haddr0
    rw [eeByte_addr0 tx haddr0]
  · intro haddr1
    rw [eeByte_addr1 tx haddr1]
  · intro haddr2
    rw [eeByte_addr2 tx haddr2, joinAddr_eq_ofNat]
  · intro hdata
    rw [eeByte_data tx hdata, BitVec.ofNat_add, BitVec.ofNat_toNat, BitVec.setWidth_eq]
    rfl

/-! ## The engine's exchange -/

theorem spiXfer_selected {s : State} (tx : Byte) (hcs : s.csN = false) : spiXfer tx s = eeByte tx s :=
  if_neg (Bool.eq_false_iff.1 hcs)

/-- With chip-select high the device does not take the byte (R44, R46). -/
theorem spiXfer_unselected {s : State} (tx : Byte) (hcs : s.csN = true) : spiXfer tx s = drawByte s :=
  if_pos hcs

/-! ## The byte states at their last edge -/

/-- The state on which the completion of a state of several cycles works: `wcnt` cleared, beside the edge rules (R75). -/
abbrev lastEdge (q : SeqCode) (s : State) : State := { clockEdge q s with wcnt := 0 }

theorem multiCycle_last {cost : BitVec 32} {s : State} (q : SeqCode) (f : State → State)
    (hlast : cost.toNat ≤ s.wcnt.toNat + 1) : multiCycle cost q f s = f (lastEdge q s) :=
  if_neg (by omega)

/-- What the last edge of a byte state leaves as it was before the edge (R44, R56). -/
structure ByteEdge (s t : State) : Prop where
  rest : t = { edgeFrame s t with wcnt := 0, seq := t.seq, sample := t.sample, draws := t.draws, ee := t.ee }
  mem : t.ee.mem = s.ee.mem
  program : t.ee.program = s.ee.program
  writeEnabled : t.ee.writeEnabled = s.ee.writeEnabled
  unselected : s.csN = true → t.ee = s.ee

/-- A completed byte exchange, whatever `seq` and `sample` become. -/
theorem spiXfer_byteEdge (tx : Byte) (q next : SeqCode) (b : Byte) (s : State) :
    ByteEdge s { (spiXfer tx (lastEdge q s)).2 with seq := next, sample := b } := by
  obtain ⟨hrest, hmem, hprogram, henabled⟩ := spiXfer_onBus tx (lastEdge q s)
  refine ⟨?_, hmem, hprogram, henabled, fun hcs => ?_⟩
  · rw [hrest]
    rfl
  · rw [spiXfer_unselected tx (show (lastEdge q s).csN = true from hcs)]
    rfl

/-- A byte state of ARMED discards the answer: it writes no `sample` (R78 to R81). -/
theorem sendByte_byteEdge {s : State} (q : SeqCode) (tx : Byte) (next : SeqCode)
    (hlast : s.cfg.spiByteCycles.toNat ≤ s.wcnt.toNat + 1) :
    ByteEdge s (sendByte q tx next s) ∧ (sendByte q tx next s).sample = s.sample := by
  rw [sendByte, multiCycle_last q _ hlast]
  refine ⟨spiXfer_byteEdge tx q next _ s, ?_⟩
  rw [(spiXfer_onBus tx (lastEdge q s)).rest]
  rfl

/-- The byte states at their last edge: the four of ARMED discard the answer, S_FETCH keeps it in `sample` (R78 to R81, R84). -/
theorem exec_byteState_last {i : Instr} {s : State}
    (hi : i ∈ [Instr.armCmd, .armAddr2, .armAddr1, .armAddr0, .sFetch])
    (hlast : s.cfg.spiByteCycles.toNat ≤ s.wcnt.toNat + 1) :
    ∃ t, exec i s = .next t ∧ ByteEdge s t ∧ (i ≠ .sFetch → t.sample = s.sample) := by
  have sends (q : SeqCode) (tx : Byte) (next : SeqCode) :
      ByteEdge s (sendByte q tx next s) ∧ (i ≠ .sFetch → (sendByte q tx next s).sample = s.sample) :=
    (sendByte_byteEdge q tx next hlast).imp_right fun h _ => h
  simp only [List.mem_cons, List.not_mem_nil, or_false] at hi
  rcases hi with rfl | rfl | rfl | rfl | rfl
  · exact ⟨_, rfl, sends _ _ _⟩
  · exact ⟨_, rfl, sends _ _ _⟩
  · exact ⟨_, rfl, sends _ _ _⟩
  · exact ⟨_, rfl, sends _ _ _⟩
  · refine ⟨_, rfl, ?_, fun hne => absurd rfl hne⟩
    rw [multiCycle_last Code.sFetch _ hlast]
    exact spiXfer_byteEdge _ _ _ _ s

/-- Settles O33: the completed exchange of each byte state, field by field. -/
theorem byteStatesFrame : Obligations.ByteStatesFrame := by
  intro i hi s hlast
  obtain ⟨t, hexec, hedge, hsample⟩ := exec_byteState_last hi hlast
  exact ⟨t, hexec, hedge.rest, hsample, hedge.mem, hedge.program, hedge.writeEnabled, hedge.unselected⟩

end Sys2Proof.Machine
end

section
/-! PROOFS. The EEPROM array under a step: its canonical form. -/

namespace Sys2Proof.Machine

/-- The only writer of the array is a program cycle that completes at a reset edge, and its writes keep the form (R61). -/
theorem resetEdge_mem_wf {s : State} (hwf : s.ee.mem.wf = true) : (resetEdge s).ee.mem.wf = true := by
  rw [resetEdge_ee, Eeprom.atResetEdge]
  dsimp only
  split
  · exact Memory.wf_writeAll _ hwf
  · exact hwf

/-- Settles O14: a state rule leaves the array alone, and an edge with `rst = 1` leaves it as the reset edge does. -/
theorem stepKeepsMemoryCanonical : Obligations.StepKeepsMemoryCanonical := by
  intro s t hwf hstep
  rcases step_shape hstep with ⟨-, -, hkept⟩ | ⟨-, -, hmem, -⟩
  · rw [hkept.mem]
    exact hwf
  · rw [hmem]
    exact resetEdge_mem_wf hwf

end Sys2Proof.Machine
end

section
/-! PROOFS. Engine and EEPROM agree while a READ is open (R40): the clauses each code asks, then the state rules one by one. -/

namespace Sys2Proof.Machine

/-! ## The clauses that a code asks -/

/-- `State.Streams` with the code of `seq` as an argument, so that at a known code a clause it does not ask is closed by
evaluation and can be left out. -/
structure State.StreamsAt (q : SeqCode) (s : State) : Prop where
  ready : q ≠ Code.idle → s.ee.program = [] ∧ s.imageProgrammed = true := by exact Not.elim (by decide)
  closed : s.csN = true → s.ee.mode = .off
  atCmd : q = Code.armCmd → s.ee.mode = .cmd := by exact Not.elim (by decide)
  atAddr2 : q = Code.armAddr2 → s.ee.mode = .addr 0 := by exact Not.elim (by decide)
  atAddr1 : q = Code.armAddr1 → s.ee.mode = .addr 1 ∧ s.ee.abuf0 = s.tx2 := by exact Not.elim (by decide)
  atAddr0 : q = Code.armAddr0 → s.ee.mode = .addr 2 ∧ s.ee.abuf0 = s.tx2 ∧ s.ee.abuf1 = s.tx1 := by
    exact Not.elim (by decide)
  streaming : 0x06 ≤ q.toNat ∧ q.toNat ≤ 0x0D → s.ee.mode = .data := by exact Not.elim (by decide)
  address : selects q → s.addr = s.track.start := by exact Not.elim (by decide)
  atStart : q = Code.armStart → s.ee.ptr = s.addr := by exact Not.elim (by decide)
  count : 0x07 ≤ q.toNat ∧ q.toNat ≤ 0x0D → s.rem.toNat ≤ s.track.length.toNat := by exact Not.elim (by decide)
  pointer : 0x07 ≤ q.toNat ∧ q.toNat ≤ 0x08 → s.ee.ptr = s.track.start + BitVec.ofNat 24 s.position := by
    exact Not.elim (by decide)
  pointerNext : 0x09 ≤ q.toNat ∧ q.toNat ≤ 0x0B → s.ee.ptr = s.track.start + BitVec.ofNat 24 (s.position + 1) := by
    exact Not.elim (by decide)
  fetched : 0x09 ≤ q.toNat ∧ q.toNat ≤ 0x0B →
    s.sample = Memory.read s.ee.mem (s.track.start.toNat + s.position) := by exact Not.elim (by decide)
  written : 0x0A ≤ q.toNat ∧ q.toNat ≤ 0x0B →
    s.cmpBuf = Memory.read s.ee.mem (s.track.start.toNat + s.position) := by exact Not.elim (by decide)

/-- From S_CHECK to D_CSOFF, `q` asks nothing of the pointer and the data path that `p` does not. -/
abbrev asksNoMore (p q : SeqCode) : Prop :=
  (0x07 ≤ p.toNat ∧ p.toNat ≤ 0x0D) ∧ (0x07 ≤ q.toNat ∧ q.toNat ≤ 0x0D) ∧
  (q.toNat ≤ 0x08 → p.toNat ≤ 0x08) ∧
  (0x09 ≤ q.toNat ∧ q.toNat ≤ 0x0B → 0x09 ≤ p.toNat ∧ p.toNat ≤ 0x0B) ∧
  (0x0A ≤ q.toNat ∧ q.toNat ≤ 0x0B → 0x0A ≤ p.toNat ∧ p.toNat ≤ 0x0B)

section
variable {s : State} {p q : SeqCode}

theorem State.Streams.atCode (h : s.Streams) (hs : s.seq = q) : s.StreamsAt q := by
  subst hs
  exact { h with }

theorem State.Streams.of_atCode (hs : s.seq = q) (h : s.StreamsAt q) : s.Streams := by
  subst hs
  exact { h with }

/-- A move of the sequencer alone that needs no new clause. -/
theorem State.StreamsAt.move (h : s.StreamsAt p) (hmove : asksNoMore p q) : s.StreamsAt q := by
  obtain ⟨hp, hq, hpointer, hnext, hwritten⟩ := hmove
  have hne {c : SeqCode} (hc : ¬ (0x07 ≤ c.toNat ∧ c.toNat ≤ 0x0D)) : q ≠ c := by
    rintro rfl
    exact hc hq
  exact
    { ready := fun _ => h.ready (by rintro rfl; exact absurd hp (by decide))
      closed := h.closed
      atCmd := Not.elim (hne (by decide))
      atAddr2 := Not.elim (hne (by decide))
      atAddr1 := Not.elim (hne (by decide))
      atAddr0 := Not.elim (hne (by decide))
      streaming := fun _ => h.streaming ⟨by omega, hp.2⟩
      address := fun _ => h.address ⟨by omega, hp.2⟩
      atStart := Not.elim (hne (by decide))
      count := fun _ => h.count hp
      pointer := fun hz => h.pointer ⟨hp.1, hpointer hz.2⟩
      pointerNext := fun hz => h.pointerNext (hnext hz)
      fetched := fun hz => h.fetched (hnext hz)
      written := fun hz => h.written (hwritten hz) }

/-- Chip-select is asserted at the codes that I5 names, so there the clause `closed` asks nothing. -/
theorem State.Inv.csN_of_selects (hinv : s.Inv) (hs : s.seq = q) (hq : selects q) : s.csN = false :=
  (hinv.selected_iff hs).2 hq

end

/-! ## States of several cycles -/

theorem State.Inv.lastEdge {s : State} (h : s.Inv) (q : SeqCode) : (lastEdge q s).Inv :=
  { h.clockEdge q with waits := fun _ => rfl }

theorem State.Streams.lastEdge {s : State} (h : s.Streams) (q : SeqCode) : (lastEdge q s).Streams := { h with }

/-- Staying in a state of several cycles keeps the agreement; what is left is its completion (R75). -/
theorem State.Streams.multiCycle {s : State} (h : s.Streams) {cost : BitVec 32} {q : SeqCode} {f : State → State}
    (hdone : (f (Machine.lastEdge q s)).Streams) : (multiCycle cost q f s).Streams := by
  rcases multiCycle_cases cost q f s with ⟨-, hstay⟩ | ⟨-, hlast⟩
  · rw [hstay]
    exact { h with }
  · rw [hlast]
    exact hdone

/-! ## The bytes of the READ -/

section
variable {u : State}

/-- ARM_CMD's byte opens the READ: the device waits for an address (R78). -/
theorem State.Streams.sent_armCmd (h : u.Streams) (hinv : u.Inv) (hs : u.seq = Code.armCmd) :
    State.Streams { (spiXfer Cmd.read u).2 with seq := Code.armAddr2 } := by
  have hcs := hinv.csN_of_selects hs (by decide)
  have k := h.atCode hs
  rw [spiXfer_selected _ hcs, eeByte_cmd _ (k.atCmd rfl)]
  exact .of_atCode (q := Code.armAddr2) rfl
    { ready := fun _ => k.ready (by decide)
      closed := by simp [hcs]
      atAddr2 := fun _ => rfl
      address := fun _ => k.address (by decide) }

theorem State.Streams.sent_armAddr2 (h : u.Streams) (hinv : u.Inv) (hs : u.seq = Code.armAddr2) :
    State.Streams { (spiXfer u.tx2 u).2 with seq := Code.armAddr1 } := by
  have hcs := hinv.csN_of_selects hs (by decide)
  have k := h.atCode hs
  rw [spiXfer_selected _ hcs, eeByte_addr0 _ (k.atAddr2 rfl)]
  exact .of_atCode (q := Code.armAddr1) rfl
    { ready := fun _ => k.ready (by decide)
      closed := by simp [hcs]
      atAddr1 := fun _ => ⟨rfl, rfl⟩
      address := fun _ => k.address (by decide) }

theorem State.Streams.sent_armAddr1 (h : u.Streams) (hinv : u.Inv) (hs : u.seq = Code.armAddr1) :
    State.Streams { (spiXfer u.tx1 u).2 with seq := Code.armAddr0 } := by
  have hcs := hinv.csN_of_selects hs (by decide)
  have k := h.atCode hs
  obtain ⟨hmode, hbuf0⟩ := k.atAddr1 rfl
  rw [spiXfer_selected _ hcs, eeByte_addr1 _ hmode]
  exact .of_atCode (q := Code.armAddr0) rfl
    { ready := fun _ => k.ready (by decide)
      closed := by simp [hcs]
      atAddr0 := fun _ => ⟨rfl, hbuf0, rfl⟩
      address := fun _ => k.address (by decide) }

/-- With the third address byte the device has put `addr` together again (R46, R54, R81). -/
theorem State.Streams.sent_armAddr0 (h : u.Streams) (hinv : u.Inv) (hs : u.seq = Code.armAddr0) :
    State.Streams { (spiXfer u.tx0 u).2 with seq := Code.armStart } := by
  have hcs := hinv.csN_of_selects hs (by decide)
  have k := h.atCode hs
  obtain ⟨hmode, hbuf0, hbuf1⟩ := k.atAddr0 rfl
  have hjoin : joinAddr u.ee.abuf0 u.ee.abuf1 u.tx0 = u.addr := by
    rw [hbuf0, hbuf1]
    exact joinAddr_bytes u.addr
  rw [spiXfer_selected _ hcs, eeByte_addr2 _ hmode]
  exact .of_atCode (q := Code.armStart) rfl
    { ready := fun _ => k.ready (by decide)
      closed := by simp [hcs]
      streaming := fun _ => rfl
      address := fun _ => k.address (by decide)
      atStart := fun _ => hjoin }

/-- At a fetch's last edge the device gives the track's byte of the current position and moves on (R40, R45, R46). -/
theorem State.Streams.spiXfer_fetch (h : u.Streams) (hinv : u.Inv) (hs : u.seq = Code.sFetch) (tx : Byte) :
    spiXfer tx u =
      (Memory.read u.ee.mem (u.track.start.toNat + u.position), { u with ee := { u.ee with ptr := u.ee.ptr + 1 } }) := by
  have k := h.atCode hs
  obtain ⟨hprogram, -⟩ := k.ready (by decide)
  have hidle : u.ee.busy = false := by rw [Eeprom.busy, hprogram, List.isEmpty_nil, Bool.not_true]
  obtain ⟨-, hlow, hhigh⟩ := fetchesStayInTrack u hinv h hs
  rw [spiXfer_selected _ (hinv.csN_of_selects hs (by decide)), eeByte_data _ (k.streaming (by decide)),
    memRead_inside hidle (hlow.trans_le hhigh), hinv.ptr_toNat_at_fetch h hs]

theorem State.Streams.sent_sFetch (h : u.Streams) (hinv : u.Inv) (hs : u.seq = Code.sFetch) :
    State.Streams { (spiXfer dummyTx u).2 with sample := (spiXfer dummyTx u).1, seq := Code.sDuty } := by
  have k := h.atCode hs
  have hnext : u.ee.ptr + 1 = u.track.start + BitVec.ofNat 24 (u.position + 1) := by
    rw [k.pointer (by decide), BitVec.ofNat_add, BitVec.add_assoc]
    rfl
  rw [h.spiXfer_fetch hinv hs]
  exact .of_atCode (q := Code.sDuty) rfl
    { ready := fun _ => k.ready (by decide)
      closed := k.closed
      streaming := fun _ => k.streaming (by decide)
      address := fun _ => k.address (by decide)
      count := fun _ => k.count (by decide)
      pointerNext := fun _ => hnext
      fetched := fun _ => rfl }

end

/-! ## The state rules -/

section
variable {s : State}

/-- IDLE asks nothing of the device: that it is ready for a session is known only from the step itself (R124, R126). -/
theorem State.Streams.execIdle (h : s.Streams) (hready : s.ee.program = [] ∧ s.imageProgrammed = true) :
    ∃ t, execIdle s = .next t ∧ t.Streams := by
  refine ⟨_, rfl, ?_⟩
  split
  · exact .of_atCode (q := Code.armLoad) rfl { ready := fun _ => hready, closed := h.closed }
  · exact .of_atCode (q := Code.idle) rfl { closed := h.closed }

/-- ARM_LOAD opens the transaction: chip-select was high and falls (R77, R44). -/
theorem State.Streams.execArmLoad (h : s.Streams) (hinv : s.Inv) (hs : s.seq = Code.armLoad) :
    ∃ t, execArmLoad s = .next t ∧ t.Streams := by
  have hcs : s.csN = true := Bool.eq_true_of_not_eq_false (mt (hinv.selected_iff hs).1 (by decide))
  refine ⟨_, rfl, ?_⟩
  rw [setCs_eq]
  exact .of_atCode (q := Code.armCmd) rfl
    { ready := fun _ => (h.atCode hs).ready (by decide)
      closed := nofun
      atCmd := fun _ => if_pos ⟨hcs, rfl⟩
      address := fun _ => rfl }

theorem State.Streams.execArmCmd (h : s.Streams) (hinv : s.Inv) (hs : s.seq = Code.armCmd) :
    ∃ t, execArmCmd s = .next t ∧ t.Streams :=
  ⟨_, rfl, h.multiCycle ((h.lastEdge _).sent_armCmd (hinv.lastEdge _) hs)⟩

theorem State.Streams.execArmAddr2 (h : s.Streams) (hinv : s.Inv) (hs : s.seq = Code.armAddr2) :
    ∃ t, execArmAddr2 s = .next t ∧ t.Streams :=
  ⟨_, rfl, h.multiCycle ((h.lastEdge _).sent_armAddr2 (hinv.lastEdge _) hs)⟩

theorem State.Streams.execArmAddr1 (h : s.Streams) (hinv : s.Inv) (hs : s.seq = Code.armAddr1) :
    ∃ t, execArmAddr1 s = .next t ∧ t.Streams :=
  ⟨_, rfl, h.multiCycle ((h.lastEdge _).sent_armAddr1 (hinv.lastEdge _) hs)⟩

theorem State.Streams.execArmAddr0 (h : s.Streams) (hinv : s.Inv) (hs : s.seq = Code.armAddr0) :
    ∃ t, execArmAddr0 s = .next t ∧ t.Streams :=
  ⟨_, rfl, h.multiCycle ((h.lastEdge _).sent_armAddr0 (hinv.lastEdge _) hs)⟩

/-- ARM_START sets the cursor to position 0, where the pointer stands (R82). -/
theorem State.Streams.execArmStart (h : s.Streams) (hs : s.seq = Code.armStart) :
    ∃ t, execArmStart s = .next t ∧ t.Streams := by
  have k := h.atCode hs
  have hptr : s.ee.ptr = s.track.start + BitVec.ofNat 24 (s.track.length.toNat - s.track.length.toNat) := by
    rw [Nat.sub_self, BitVec.add_zero, k.atStart rfl, k.address (by decide)]
  exact ⟨_, rfl, .of_atCode (q := Code.sCheck) rfl
    { ready := fun _ => k.ready (by decide)
      closed := k.closed
      streaming := fun _ => k.streaming (by decide)
      address := fun _ => k.address (by decide)
      count := fun _ => Nat.le_refl _
      pointer := fun _ => hptr }⟩

theorem State.Streams.execSCheck (h : s.Streams) (hs : s.seq = Code.sCheck) :
    ∃ t, execSCheck s = .next t ∧ t.Streams := by
  refine ⟨_, rfl, ?_⟩
  split
  · exact .of_atCode rfl { (h.atCode hs).move (q := Code.dStop) (by decide) with }
  · exact .of_atCode rfl { (h.atCode hs).move (q := Code.sFetch) (by decide) with }

theorem State.Streams.execSFetch (h : s.Streams) (hinv : s.Inv) (hs : s.seq = Code.sFetch) :
    ∃ t, execSFetch s = .next t ∧ t.Streams :=
  ⟨_, rfl, h.multiCycle ((h.lastEdge _).sent_sFetch (hinv.lastEdge _) hs)⟩

/-- S_DUTY hands the byte in `sample` on to `cmp_buf` (R85). -/
theorem State.Streams.execSDuty (h : s.Streams) (hs : s.seq = Code.sDuty) :
    ∃ t, execSDuty s = .next t ∧ t.Streams := by
  have k := h.atCode hs
  exact ⟨_, rfl, .of_atCode (q := Code.sLed) rfl
    { ready := fun _ => k.ready (by decide)
      closed := k.closed
      streaming := fun _ => k.streaming (by decide)
      address := fun _ => k.address (by decide)
      count := fun _ => k.count (by decide)
      pointerNext := fun _ => k.pointerNext (by decide)
      fetched := fun _ => k.fetched (by decide)
      written := fun _ => k.fetched (by decide) }⟩

/-- S_LED writes the LED's registers only, which the agreement does not read (R86). -/
theorem State.Streams.execSLed (h : s.Streams) (hs : s.seq = Code.sLed) :
    ∃ t, execSLed s = .next t ∧ t.Streams := by
  refine ⟨_, rfl, ?_⟩
  rw [ledRampStep_eq]
  exact .of_atCode rfl { (h.atCode hs).move (q := Code.sWait) (by decide) with }

/-- S_WAIT counts one sample off, and the position moves to where the pointer already stands (R87). -/
theorem State.Streams.execSWait (h : s.Streams) (hinv : s.Inv) (hs : s.seq = Code.sWait) :
    ∃ t, execSWait s = .next t ∧ t.Streams := by
  have k := h.atCode hs
  refine ⟨_, rfl, ?_⟩
  split
  · have hcount := k.count (by decide)
    have hpos : 0 < s.rem.toNat :=
      Nat.pos_of_ne_zero fun hz => hinv.rem_ne_zero hs (by decide) (BitVec.eq_of_toNat_eq hz)
    have hdown : (s.rem - 1).toNat = s.rem.toNat - 1 := BitVec.toNat_sub_of_le (BitVec.le_def.2 hpos)
    have hmove : s.track.length.toNat - (s.rem - 1).toNat = s.position + 1 := by
      rw [hdown, State.position]
      omega
    exact .of_atCode (q := Code.sCheck) rfl
      { ready := fun _ => k.ready (by decide)
        closed := k.closed
        streaming := fun _ => k.streaming (by decide)
        address := fun _ => k.address (by decide)
        count := fun _ => hdown.trans_le ((Nat.sub_le _ _).trans hcount)
        pointer := fun _ => (k.pointerNext (by decide)).trans (by rw [← hmove]; rfl) }
  · exact .of_atCode (q := Code.sWait) rfl { k with }

theorem State.Streams.execDStop (h : s.Streams) (hs : s.seq = Code.dStop) :
    ∃ t, execDStop s = .next t ∧ t.Streams :=
  ⟨_, rfl, .of_atCode rfl { (h.atCode hs).move (q := Code.dCsoff) (by decide) with }⟩

/-- D_CSOFF closes the transaction: chip-select was asserted and rises (R89, R44). -/
theorem State.Streams.execDCsoff (h : s.Streams) (hinv : s.Inv) (hs : s.seq = Code.dCsoff) :
    ∃ t, execDCsoff s = .next t ∧ t.Streams := by
  have hcs := hinv.csN_of_selects hs (by decide)
  refine ⟨_, rfl, ?_⟩
  rw [setCs_eq]
  exact .of_atCode (q := Code.dLedon) rfl
    { ready := fun _ => (h.atCode hs).ready (by decide)
      closed := fun _ => by simp [hcs] }

theorem State.Streams.execDLedon (h : s.Streams) (hs : s.seq = Code.dLedon) :
    ∃ t, execDLedon s = .next t ∧ t.Streams :=
  ⟨_, rfl, .of_atCode (q := Code.dAdvance) rfl { ready := fun _ => (h.atCode hs).ready (by decide), closed := h.closed }⟩

theorem State.Streams.execDAdvance (h : s.Streams) (hs : s.seq = Code.dAdvance) :
    ∃ t, execDAdvance s = .next t ∧ t.Streams :=
  ⟨_, rfl, .of_atCode (q := Code.dSettle) rfl { ready := fun _ => (h.atCode hs).ready (by decide), closed := h.closed }⟩

theorem State.Streams.execDSettle (h : s.Streams) : ∃ t, execDSettle s = .next t ∧ t.Streams :=
  ⟨_, rfl, h.multiCycle (.of_atCode (q := Code.idle) rfl { closed := h.closed })⟩

end

/-- The state rule of `seq` keeps the agreement, on a device that is ready (R124, R126); an illegal code is excluded by I1. -/
theorem State.Streams.exec_seq {s : State} (h : s.Streams) (hinv : s.Inv)
    (hready : s.ee.program = [] ∧ s.imageProgrammed = true) : ∃ t, exec (decodeSeq s.seq) s = .next t ∧ t.Streams := by
  rcases seqCode_cases s.seq with (hs | hs | hs | hs | hs | hs | hs) | (hs | hs | hs | hs | hs) |
    (hs | hs | hs | hs | hs) | hs
  case inr.inr.inr => exact absurd (BitVec.le_def.1 hs) (Nat.not_le_of_lt (Nat.lt_succ_of_le hinv.seqLegal))
  all_goals rw [hs]
  · exact h.execIdle hready
  · exact h.execArmLoad hinv hs
  · exact h.execArmCmd hinv hs
  · exact h.execArmAddr2 hinv hs
  · exact h.execArmAddr1 hinv hs
  · exact h.execArmAddr0 hinv hs
  · exact h.execArmStart hs
  · exact h.execSCheck hs
  · exact h.execSFetch hinv hs
  · exact h.execSDuty hs
  · exact h.execSLed hs
  · exact h.execSWait hinv hs
  · exact h.execDStop hs
  · exact h.execDCsoff hinv hs
  · exact h.execDLedon hs
  · exact h.execDAdvance hs
  · exact h.execDSettle

/-- With `rst = 0` a step runs only on an idle device with a programmed image (R124, R126). -/
theorem step_ready {s t : State} (hstep : step s = .next t) (hrun : s.inputs.reset = none) :
    s.ee.program = [] ∧ s.imageProgrammed = true := by
  obtain ⟨-, ⟨-, hbusy, himage, -⟩ | ⟨_, hr, -⟩ | ⟨_, _, _, hr, -⟩ | ⟨_, _, _, hr, -⟩⟩ := step_cases hstep
  case inl => exact ⟨by simpa [Eeprom.busy] using hbusy, himage⟩
  all_goals simp [hrun] at hr

/-- An edge with `rst = 1` ends in IDLE with the device in OFF, where no READ is open (R33, R44). -/
theorem ResetShape.streams {s t : State} (h : ResetShape s t) : t.Streams := by
  obtain ⟨hregs, -, hoff⟩ := h
  exact streams_of_idle (by rw [hregs]; rfl) hoff

/-- Settles O12: with `rst = 0` the state rule of `seq` keeps the agreement, with `rst = 1` no transaction is open. -/
theorem stepKeepsStreaming : Obligations.StepKeepsStreaming := by
  intro s t hinv hstr hstep
  rcases step_shape hstep with ⟨hrun, hexec, -⟩ | ⟨-, hreset⟩
  · obtain ⟨u, hu, hkeep⟩ := hstr.exec_seq hinv (step_ready hstep hrun)
    obtain rfl : u = t := Host.Outcome.next.inj (hu.symm.trans hexec)
    exact hkeep
  · exact hreset.streams

end Sys2Proof.Machine
end

section
/-! PROOFS. The decoder (R48 to R54): the frames of the table in one place, and the encoder against them. -/

namespace Sys2Proof

/-- The frames of the table with the instruction of each: command byte and operands (R49), lengths (R50). -/
inductive TableFrame : List Byte → Instr → Prop
  | read (a2 a1 a0 : Byte) (data : List Byte) :
      TableFrame (Cmd.read :: a2 :: a1 :: a0 :: data) (.read (joinAddr a2 a1 a0) data.length)
  | wren : TableFrame [Cmd.wren] .wren
  | pp (a2 a1 a0 : Byte) (data : List Byte) (hwf : (Instr.pp (joinAddr a2 a1 a0) data).wf = true) :
      TableFrame (Cmd.pp :: a2 :: a1 :: a0 :: data) (.pp (joinAddr a2 a1 a0) data)
  | rdsr (rest : List Byte) (hlen : rest.length ≠ 0) : TableFrame (Cmd.rdsr :: rest) (.rdsr rest.length)
  | rdid (rest : List Byte) (hlen : rest.length = 3) : TableFrame (Cmd.rdid :: rest) .rdid

/-- The decoder accepts every frame of the table. -/
theorem TableFrame.decodeFrame_eq {bytes : List Byte} {i : Instr} (h : TableFrame bytes i) :
    decodeFrame bytes = .ok i := by
  cases h with
  | read => rfl
  | wren => rfl
  | pp a2 a1 a0 data hwf => exact if_pos hwf
  | rdsr rest hlen => exact if_neg hlen
  | rdid rest hlen => exact if_pos hlen

/-- The decoder accepts no other frame. -/
theorem tableFrame_of_decodeFrame {bytes : List Byte} {i : Instr} (h : decodeFrame bytes = .ok i) :
    TableFrame bytes i := by
  cases bytes with
  | nil => cases h
  | cons c rest =>
    simp only [decodeFrame] at h
    split_ifs at h with hread hwren hpp hrdsr hlen hrdid hlen
    · subst hread
      split at h <;> cases h
      exact .read _ _ _ _
    · subst hwren
      split at h <;> cases h
      exact .wren
    · subst hpp
      split at h
      · split_ifs at h with hwf
        cases h
        exact .pp _ _ _ _ hwf
      · cases h
    · cases h
      subst hrdsr
      exact .rdsr rest hlen
    · cases h
      subst hrdid
      exact .rdid rest hlen

/-- The address bytes of a reassembled address are the bytes it was made of (R46, R54). -/
theorem addrBytes_joinAddr (b2 b1 b0 : Byte) : addrBytes (joinAddr b2 b1 b0) = [b2, b1, b0] := by
  have h2 := b2.isLt
  have h1 := b1.isLt
  have h0 := b0.isLt
  rw [Machine.joinAddr_eq_ofNat]
  simp only [addrBytes, List.cons.injEq, and_true]
  refine ⟨?_, ?_, ?_⟩
  all_goals
    apply BitVec.eq_of_toNat_eq
    simp only [BitVec.extractLsb'_toNat, BitVec.toNat_ofNat, Nat.shiftRight_eq_div_pow]
    omega

theorem wf_rdsr_iff (n : Nat) : (Instr.rdsr n).wf = true ↔ n ≠ 0 := by
  simp [Instr.wf, Instr.failing]

/-- Settles O2: the encoder writes frames of the table and codes of `seq`, and the address comes back from its bytes. -/
theorem decodeOfEncode : Obligations.DecodeOfEncode := by
  intro i hwf
  cases i with
  | read a n =>
    have h := TableFrame.read (a.extractLsb' 16 8) (a.extractLsb' 8 8) (a.extractLsb' 0 8) (List.replicate n dummyTx)
    rw [joinAddr_bytes, List.length_replicate] at h
    exact h.decodeFrame_eq
  | pp a data =>
    have h := TableFrame.pp (a.extractLsb' 16 8) (a.extractLsb' 8 8) (a.extractLsb' 0 8) data (by rwa [joinAddr_bytes])
    rw [joinAddr_bytes] at h
    exact h.decodeFrame_eq
  | rdsr n =>
    have h := TableFrame.rdsr (List.replicate n dummyTx) (by rwa [List.length_replicate, ← wf_rdsr_iff])
    rw [List.length_replicate] at h
    exact h.decodeFrame_eq
  | _ => rfl

/-- Settles O3, row by row of the table. -/
theorem decodedFramesAreWellFormed : Obligations.DecodedFramesAreWellFormed := by
  intro bytes i h
  cases tableFrame_of_decodeFrame h with
  | read a2 a1 a0 data => simp [frameBytes, encode, addrBytes_joinAddr, Instr.wf, Instr.failing]
  | wren => decide
  | pp a2 a1 a0 data hwf => simp [frameBytes, encode, addrBytes_joinAddr, hwf]
  | rdsr rest hlen => simp [frameBytes, encode, (wf_rdsr_iff _).2 hlen, Cmd.rdsr]
  | rdid rest hlen => simp [frameBytes, encode, hlen, Instr.wf, Instr.failing, Cmd.rdid]

/-- Settles O1, by evaluation. -/
theorem specWordsDecode : Obligations.SpecWordsDecode :=
  ⟨rfl, rfl, rfl, rfl, rfl, rfl, rfl, rfl, rfl, rfl⟩

/-- Settles O4: every branch of the decoder but the last asks for one of the five bytes. -/
theorem otherCommandBytesRejected : Obligations.OtherCommandBytesRejected := by
  intro c rest hc
  simp only [List.mem_cons, List.not_mem_nil, or_false, not_or] at hc
  obtain ⟨hread, hwren, hpp, hrdsr, hrdid⟩ := hc
  simp only [decodeFrame, if_neg hread, if_neg hwren, if_neg hpp, if_neg hrdsr, if_neg hrdid]

end Sys2Proof
end

section
/-! PROOFS. A transaction that is no row of the table (R51): the bytes the device sees one by one (R46), then what a frame of
WREN or PP leaves open (K12). -/

namespace Sys2Proof.Machine

/-! ## The bytes -/

/-- In OTHER the device takes every byte without effect (R46). -/
theorem exchangeAll_other (bytes : List Byte) {s : State} (hmode : s.ee.mode = .other) :
    (exchangeAll bytes s).2.ee = s.ee ∧ (exchangeAll bytes s).2.draws = s.draws + bytes.length := by
  induction bytes generalizing s with
  | nil => exact ⟨rfl, rfl⟩
  | cons tx rest ih =>
    obtain ⟨hee, hdraws⟩ := ih (s := (drawByte s).2) hmode
    rw [exchangeAll, eeByte_other tx hmode]
    refine ⟨hee, hdraws.trans ?_⟩
    rw [drawByte_draws, List.length_cons]
    omega

/-- A frame that does not begin with the byte of READ leaves no trace in the device but its draws. -/
theorem transaction_of_ne_read {bytes : List Byte} (hread : bytes.headD 0 ≠ Cmd.read) (s : State) :
    (transaction bytes s).2.ee = { s.ee with mode := .off } ∧
      (transaction bytes s).2.draws = s.draws + bytes.length := by
  cases bytes with
  | nil => exact ⟨rfl, rfl⟩
  | cons c rest =>
    have hother : (eeByte c (csFall s)).2.ee.mode = .other := by
      rw [eeByte_cmd c rfl]
      exact if_neg hread
    obtain ⟨hee, hdraws⟩ := exchangeAll_other rest hother
    rw [transaction, exchangeAll, csRise_ee, csRise_draws]
    dsimp only
    rw [hee, hdraws, eeByte_cmd c rfl, List.length_cons, Nat.add_comm rest.length, ← Nat.add_assoc]
    exact ⟨rfl, rfl⟩

/-- A READ cut short in its address leaves the address bytes it had in the buffer (R46). -/
theorem transaction_cutRead {rest : List Byte} (hcut : rest.length < 3) (s : State) :
    (transaction (Cmd.read :: rest) s).2.ee =
        { s.ee with mode := .off, abuf0 := rest.getD 0 s.ee.abuf0, abuf1 := rest.getD 1 s.ee.abuf1 } ∧
      (transaction (Cmd.read :: rest) s).2.draws = s.draws + (rest.length + 1) := by
  match rest, hcut with
  | [], _ | [_], _ | [_, _], _ => simp [transaction, exchangeAll, eeByte]

/-- A frame with the byte of READ is a row of the table as soon as its address is whole (R50). -/
theorem length_lt_of_decodeFrame_read {rest : List Byte} {e : DecodeError}
    (h : decodeFrame (Cmd.read :: rest) = .error e) : rest.length < 3 := by
  match rest with
  | [] | [_] | [_, _] => simp
  | a2 :: a1 :: a0 :: data =>
    rw [(TableFrame.read a2 a1 a0 data).decodeFrame_eq] at h
    cases h

/-- The device after the bytes of a frame outside the table: only the address buffer may differ. -/
def Eeprom.afterOffTable (bytes : List Byte) (e : Eeprom) : Eeprom :=
  { e with
    mode := .off
    abuf0 := if bytes.headD 0 = Cmd.read then bytes.getD 1 e.abuf0 else e.abuf0
    abuf1 := if bytes.headD 0 = Cmd.read then bytes.getD 2 e.abuf1 else e.abuf1 }

theorem transaction_offTable {bytes : List Byte} {e : DecodeError} (h : decodeFrame bytes = .error e) (s : State) :
    (transaction bytes s).2.ee = s.ee.afterOffTable bytes ∧
      (transaction bytes s).2.draws = s.draws + bytes.length := by
  by_cases hread : bytes.headD 0 = Cmd.read
  · rw [Eeprom.afterOffTable, if_pos hread, if_pos hread]
    match bytes, hread with
    | _ :: rest, rfl => exact transaction_cutRead (length_lt_of_decodeFrame_read h) s
  · rw [Eeprom.afterOffTable, if_neg hread, if_neg hread]
    exact transaction_of_ne_read hread s

/-! ## What a frame of WREN or PP leaves open -/

theorem drawCells_ee (as : List Nat) (s : State) : (drawCells as s).2.ee = s.ee := by
  induction as generalizing s with
  | nil => rfl
  | cons a rest ih => exact ih _

/-- The cells of a malformed page program are draws, so they leave the device alone. -/
theorem malformedCells_ee (bytes : List Byte) (s : State) : (malformedCells bytes s).2.ee = s.ee := by
  unfold malformedCells
  split
  · exact drawCells_ee _ s
  · rfl

/-- Without data a page program has no cells (K12). -/
theorem malformedCells_of_length_lt {bytes : List Byte} (hlen : bytes.length < 5) (s : State) :
    malformedCells bytes s = ([], s) := by
  unfold malformedCells
  split
  · simp only [List.length_cons] at hlen
    omega
  · rfl

theorem mem_pageSpan {p q x : Nat} (h : x ∈ pageSpan p q) : ∃ a, x = a % 2 ^ 24 ∧ p ≤ a / 128 ∧ a / 128 ≤ q := by
  obtain ⟨a, ha, rfl⟩ := List.mem_map.1 h
  rw [List.mem_range'_1] at ha
  exact ⟨a, rfl, by omega, by omega⟩

/-- A malformed page program reaches the pages of its addressed bytes (K12). -/
theorem mem_malformedCells {c a2 a1 a0 : Byte} {data : List Byte} {s : State} {x : Host.Cell}
    (h : x ∈ (malformedCells (c :: a2 :: a1 :: a0 :: data) s).1) :
    ∃ a, x.1 = a % 2 ^ 24 ∧ (joinAddr a2 a1 a0).toNat / 128 ≤ a / 128 ∧
      a / 128 ≤ ((joinAddr a2 a1 a0).toNat + data.length - 1) / 128 ∧ data ≠ [] := by
  cases data with
  | nil => cases h
  | cons b rest =>
    have haddr : x.1 ∈ pageSpan _ _ := drawCells_addresses _ s ▸ List.mem_map_of_mem h
    obtain ⟨a, hx, hlo, hhi⟩ := mem_pageSpan haddr
    exact ⟨a, hx, hlo, hhi, nofun⟩

/-- The cells that a frame outside the table adds to the program cycle. -/
def offTableCells (bytes : List Byte) (s : State) : List Host.Cell :=
  if bytes.headD 0 = Cmd.pp then (malformedCells bytes (drawByte (programmerFrame bytes s)).2).1 else []

/-- Without data, or with another command byte, the program cycle stays as it is (log entry 12). -/
theorem offTableCells_eq_nil {bytes : List Byte} (h : bytes.headD 0 ≠ Cmd.pp ∨ bytes.length < 5) (s : State) :
    offTableCells bytes s = [] := by
  unfold offTableCells
  split
  · next hpp => rw [malformedCells_of_length_lt (h.resolve_left (absurd hpp))]
  · rfl

/-- What a frame of WREN or PP writes beside its bytes (log entries 12, 13). -/
theorem rawFrame_writes (bytes : List Byte) (s : State) :
    (rawFrame bytes s).busRx = (programmerFrame bytes s).busRx ∧
    (rawFrame bytes s).ee = { (programmerFrame bytes s).ee with
      program := (programmerFrame bytes s).ee.program ++ offTableCells bytes s
      writeEnabled := if bytes.headD 0 = Cmd.wren ∨ bytes.headD 0 = Cmd.pp then
          (Config.freeByte (programmerFrame bytes s).draws).getLsbD 0
        else (programmerFrame bytes s).ee.writeEnabled } := by
  unfold rawFrame offTableCells
  dsimp only
  split_ifs with hopen hpp hpp
  · rw [malformedCells_ee, (malformedCells_onBus bytes _).rest]
    exact ⟨rfl, rfl⟩
  · rw [List.append_nil, List.append_nil]
    exact ⟨rfl, rfl⟩
  · exact absurd (.inr hpp) hopen
  · rw [List.append_nil]
    exact ⟨rfl, rfl⟩

theorem length_rawFrame_busRx (bytes : List Byte) (s : State) : (rawFrame bytes s).busRx.length = bytes.length := by
  rw [(rawFrame_writes bytes s).1]
  exact exchangeAll_length bytes _

/-- The device after a whole transaction outside the table. -/
theorem rawFrame_ee_offTable {bytes : List Byte} {e : DecodeError} (h : decodeFrame bytes = .error e) (s : State) :
    (rawFrame bytes s).ee = { (resetEdge s).ee.afterOffTable bytes with
      program := (resetEdge s).ee.program ++ offTableCells bytes s
      writeEnabled := if bytes.headD 0 = Cmd.wren ∨ bytes.headD 0 = Cmd.pp then
          (Config.freeByte (s.draws + bytes.length)).getLsbD 0
        else s.ee.writeEnabled } := by
  obtain ⟨hee, hdraws⟩ := transaction_offTable h (resetEdge s)
  have hframe : (programmerFrame bytes s).ee = (resetEdge s).ee.afterOffTable bytes := hee
  have hdrawn : (programmerFrame bytes s).draws = s.draws + bytes.length := hdraws
  rw [(rawFrame_writes bytes s).2, hframe, hdrawn]
  rfl

/-! ## The step -/

theorem step_offTable {s : State} {held : Held} {bytes : List Byte} {e : DecodeError} (hadm : s.cfg.failing = none)
    (hr : s.inputs.reset = some held) (hf : held.frame = some bytes) (hd : decodeFrame bytes = .error e) :
    step s = .next (rawFrame bytes s) := by
  simp [step, fetch, hadm, hr, hf, hd]

/-- Settles O55: the device takes the bytes one by one, then what the frame leaves open is drawn. -/
theorem offTableFramesRun : Obligations.OffTableFramesRun := by
  refine ⟨fun s held bytes e hadm hr hf hd => ?_, fun s start data hwf => if_neg (Bool.eq_false_iff.1 hwf)⟩
  obtain ⟨hreset, -, hoff⟩ := rawFrame_shape bytes s
  have hee := rawFrame_ee_offTable hd s
  refine ⟨_, step_offTable hadm hr hf hd, hreset, hoff, length_rawFrame_busRx bytes s, ?_, ?_, ?_, ?_, ?_⟩
  · rw [hee]
    rfl
  · intro hempty
    rw [hee, offTableCells_eq_nil hempty, List.append_nil]
  · intro hwren hpp
    rw [hee, if_neg (not_or_intro hwren hpp)]
  · intro hopen
    rw [hee, if_pos hopen]
  · rintro a2 a1 a0 data rfl c hc
    rw [hee] at hc
    exact (List.mem_append.1 hc).imp_right mem_malformedCells

end Sys2Proof.Machine
end

section
/-! PROOFS. What a transaction of the programmer returns, and where a READ leaves the device (R46, R59). -/

namespace Sys2Proof.Machine

/-! ## Outside a READ -/

/-- In OTHER every returned byte is the next draw (R46). -/
theorem exchangeAll_other_returned (bytes : List Byte) {s : State} (hmode : s.ee.mode = .other) :
    (exchangeAll bytes s).1 = (List.range bytes.length).map fun k => Config.freeByte (s.draws + k) := by
  induction bytes generalizing s with
  | nil => rfl
  | cons tx rest ih =>
    rw [exchangeAll, eeByte_other tx hmode, List.length_cons, List.range_succ_eq_map]
    simp [ih (s := (drawByte s).2) hmode, Nat.add_assoc, Nat.add_comm 1]

/-- A frame that does not begin with the byte of READ returns draws only. -/
theorem transaction_returned_of_ne_read {bytes : List Byte} (hread : bytes.headD 0 ≠ Cmd.read) (s : State) :
    (transaction bytes s).1 = (List.range bytes.length).map fun k => Config.freeByte (s.draws + k) := by
  cases bytes with
  | nil => rfl
  | cons c rest =>
    have hother : (eeByte c (csFall s)).2.ee.mode = .other := by
      rw [eeByte_cmd c rfl]
      exact if_neg hread
    rw [transaction, exchangeAll, exchangeAll_other_returned rest hother, eeByte_cmd c rfl, List.length_cons,
      List.range_succ_eq_map]
    simp [Nat.add_assoc, Nat.add_comm 1]

/-- The device takes such a frame without effect. -/
theorem programmerFrame_ee_of_ne_read {bytes : List Byte} (hread : bytes.headD 0 ≠ Cmd.read) (s : State) :
    (programmerFrame bytes s).ee = (resetEdge s).ee :=
  (transaction_of_ne_read hread (resetEdge s)).1

/-- What the outside sees of such a frame. -/
theorem programmerFrame_busRx_of_ne_read {bytes : List Byte} (hread : bytes.headD 0 ≠ Cmd.read) (s : State) :
    (programmerFrame bytes s).busRx = (List.range bytes.length).map fun k => Config.freeByte (s.draws + k) :=
  transaction_returned_of_ne_read hread (resetEdge s)

/-! ## A READ -/

/-- A byte of the address as a number (R35). -/
theorem extractLsb'_eq_ofNat (a : EeAddr) (k : Nat) : a.extractLsb' k 8 = BitVec.ofNat 8 (a.toNat / 2 ^ k) := by
  rw [BitVec.extractLsb', Nat.shiftRight_eq_div_pow]

/-- The device once the command and the address of a READ are in (R46, R59). -/
def Eeprom.reading (a : EeAddr) (e : Eeprom) : Eeprom :=
  { e with
    mode := .data
    ptr := a
    abuf0 := BitVec.ofNat 8 (a.toNat / 65536)
    abuf1 := BitVec.ofNat 8 (a.toNat / 256)
    abuf2 := BitVec.ofNat 8 a.toNat }

theorem Eeprom.reading_eq (a : EeAddr) (e : Eeprom) :
    e.reading a = { e with
      mode := .data, ptr := a
      abuf0 := a.extractLsb' 16 8, abuf1 := a.extractLsb' 8 8, abuf2 := a.extractLsb' 0 8 } := by
  rw [extractLsb'_eq_ofNat, extractLsb'_eq_ofNat, extractLsb'_eq_ofNat, Nat.pow_zero, Nat.div_one]
  rfl

/-- The state before the first data byte of a READ: four draws were returned. -/
def readOpened (a : EeAddr) (s : State) : State := { s with ee := s.ee.reading a, draws := s.draws + 4 }

/-- The first four bytes of a READ, run one after the other. -/
theorem exchangeAll_readHeader (a : EeAddr) (rest : List Byte) (s : State) :
    exchangeAll (Cmd.read :: (addrBytes a ++ rest)) (csFall s) =
      ((List.range 4).map (fun k => Config.freeByte (s.draws + k)) ++ (exchangeAll rest (readOpened a s)).1,
        (exchangeAll rest (readOpened a s)).2) := by
  simp [addrBytes, exchangeAll, csFall, eeByte, drawByte, joinAddr_bytes, readOpened, Eeprom.reading_eq, List.range_succ]

/-- Data bytes advance the pointer, modulo 2^24, and leave the rest of the device alone (R47, R59). -/
theorem exchangeAll_data_ee (bytes : List Byte) {s : State} (hmode : s.ee.mode = .data) :
    (exchangeAll bytes s).2.ee = { s.ee with ptr := s.ee.ptr + BitVec.ofNat 24 bytes.length } := by
  induction bytes generalizing s with
  | nil => simp [exchangeAll]
  | cons tx rest ih =>
    rw [exchangeAll, ih (by rw [eeByte_data tx hmode]; exact hmode), eeByte_data tx hmode, List.length_cons,
      Nat.add_comm rest.length, BitVec.ofNat_add, ← BitVec.add_assoc]
    rfl

/-- Inside the array of an idle device the data bytes are the array's, in order (R45, R59). The pointer is a number here,
because behind the last byte of the largest array it goes on at 0. -/
theorem exchangeAll_data_returned (bytes : List Byte) {s : State} {p : Nat} (hmode : s.ee.mode = .data)
    (hidle : s.ee.busy = false) (hptr : s.ee.ptr = BitVec.ofNat 24 p) (hfit : p + bytes.length ≤ s.cfg.eeSize)
    (hsize : s.cfg.eeSize ≤ 2 ^ 24) :
    (exchangeAll bytes s).1 = (List.range bytes.length).map fun k => Memory.read s.ee.mem (p + k) := by
  induction bytes generalizing s p with
  | nil => rfl
  | cons tx rest ih =>
    rw [List.length_cons] at hfit
    have hp : s.ee.ptr.toNat = p := by
      rw [hptr, BitVec.toNat_ofNat]
      omega
    have hnext : s.ee.ptr + 1 = BitVec.ofNat 24 (p + 1) := by
      rw [hptr, BitVec.ofNat_add]
      rfl
    rw [exchangeAll, eeByte_data tx hmode, memRead_inside hidle (by omega), List.length_cons, List.range_succ_eq_map]
    dsimp only
    rw [ih (s := { s with ee := { s.ee with ptr := s.ee.ptr + 1 } }) hmode hidle hnext (by dsimp only; omega) hsize]
    simp [hp, Nat.add_assoc, Nat.add_comm 1]

/-- The device after a whole READ: the address stays in the buffer, the pointer stands behind the bytes sent out. -/
theorem programmerFrame_ee_read (a : EeAddr) (count : Nat) (s : State) :
    (programmerFrame (frameBytes (.read a count)) s).ee =
      { (resetEdge s).ee.reading a with mode := .off, ptr := a + BitVec.ofNat 24 count } := by
  have hdata := exchangeAll_data_ee (List.replicate count dummyTx) (s := readOpened a (resetEdge s)) rfl
  rw [List.length_replicate] at hdata
  rw [programmerFrame, frameBytes, encode]
  dsimp only
  rw [transaction, exchangeAll_readHeader, csRise_ee, hdata]
  rfl

/-- A READ inside the array returns four draws, then the array's bytes (R59). -/
theorem programmerFrame_busRx_read (a : EeAddr) (count : Nat) {s : State} (hidle : (resetEdge s).ee.busy = false)
    (hfit : a.toNat + count ≤ s.cfg.eeSize) (hsize : s.cfg.eeSize ≤ 2 ^ 24) :
    (programmerFrame (frameBytes (.read a count)) s).busRx =
      (List.range 4).map (fun k => Config.freeByte (s.draws + k)) ++
        (List.range count).map fun k => Memory.read (resetEdge s).ee.mem (a.toNat + k) := by
  have hdata := exchangeAll_data_returned (List.replicate count dummyTx) (s := readOpened a (resetEdge s)) (p := a.toNat)
    rfl hidle (by rw [BitVec.ofNat_toNat, BitVec.setWidth_eq]; rfl) (by rwa [List.length_replicate]) hsize
  rw [List.length_replicate] at hdata
  rw [programmerFrame, frameBytes, encode]
  dsimp only
  rw [transaction, exchangeAll_readHeader, hdata]
  rfl

end Sys2Proof.Machine
end

section
/-! PROOFS. READ, WREN, RDSR and RDID (R59, R60, R62, R63): what each leaves of the device, and what each returns. -/

namespace Sys2Proof.Machine

/-! ## The reset edge below a command -/

theorem ResetShape.eq_resetFrame {s t : State} (h : ResetShape s t) : t = resetFrame s t := h.1

theorem resetEdge_program (s : State) :
    (resetEdge s).ee.program = if s.held.progDone then [] else s.ee.program := rfl

/-- The reset edge finds nothing to write in an idle device (R61). -/
theorem resetEdge_ee_idle {s : State} (hidle : s.ee.program = []) :
    (resetEdge s).ee = { s.ee with ptr := Config.freePtr s.edge, mode := .off } := by
  rw [resetEdge_ee, Eeprom.atResetEdge, hidle, List.filter_nil, Memory.writeAll]
  simp [← hidle]

theorem Eeprom.busy_eq_false {e : Eeprom} (hidle : e.program = []) : e.busy = false := by
  rw [Eeprom.busy, hidle]
  rfl

theorem Eeprom.busy_iff (e : Eeprom) : e.busy = true ↔ e.program ≠ [] := by
  simp [Eeprom.busy]

/-! ## The device -/

/-- What a command that writes no cell leaves of the device, from what the reset edge leaves. -/
def Eeprom.afterCommand (i : Instr) (e : Eeprom) : Eeprom :=
  match i with
  | .read a count => { e.reading a with mode := .off, ptr := a + BitVec.ofNat 24 count }
  | .wren => { e with writeEnabled := true }
  | _ => e

theorem Eeprom.afterCommand_program (i : Instr) (e : Eeprom) : (e.afterCommand i).program = e.program := by
  unfold afterCommand
  split <;> rfl

theorem Eeprom.afterCommand_writeEnabled {i : Instr} (hwren : i ≠ .wren) (e : Eeprom) :
    (e.afterCommand i).writeEnabled = e.writeEnabled := by
  unfold afterCommand
  split
  · rfl
  · exact absurd rfl hwren
  · rfl

/-- Only READ writes the pointer and the address buffer. -/
theorem Eeprom.afterCommand_eq {i : Instr} (hread : ∀ a n, i ≠ .read a n) (e : Eeprom) :
    e.afterCommand i = { e with writeEnabled := (e.afterCommand i).writeEnabled } := by
  unfold afterCommand
  split
  · exact absurd rfl (hread _ _)
  · rfl
  · rfl

theorem rdsr_headD_ne_read (count : Nat) : (frameBytes (.rdsr count)).headD 0 ≠ Cmd.read :=
  show Cmd.rdsr ≠ Cmd.read by decide

/-- Each of the four completes with the shape of a reset edge, and with this device. -/
theorem exec_command_ee {start : EeAddr} {n : Nat} {i : Instr} (hi : i ∈ [Instr.read start n, .wren, .rdsr n, .rdid])
    (s : State) : ∃ t, exec i s = .next t ∧ ResetShape s t ∧ t.ee = (resetEdge s).ee.afterCommand i := by
  simp only [List.mem_cons, List.not_mem_nil, or_false] at hi
  rcases hi with rfl | rfl | rfl | rfl
  · exact ⟨_, rfl, programmerFrame_shape _ s, programmerFrame_ee_read start n s⟩
  · refine ⟨_, rfl, (programmerFrame_shape _ s).of rfl rfl rfl, ?_⟩
    rw [programmerFrame_ee_of_ne_read (by decide)]
    rfl
  · exact ⟨_, rfl, (programmerFrame_shape _ s).of rfl rfl rfl, programmerFrame_ee_of_ne_read (rdsr_headD_ne_read n) s⟩
  · exact ⟨_, rfl, programmerFrame_shape _ s, programmerFrame_ee_of_ne_read (by decide) s⟩

/-- Settles O48, from what each command leaves of the device. -/
theorem commandsFrame : Obligations.CommandsFrame := by
  intro s start n i hi
  obtain ⟨t, hexec, hshape, hee⟩ := exec_command_ee hi s
  have hmem : t.ee.mem = (resetEdge s).ee.mem := hshape.2.1
  have hprogram : t.ee.program = (resetEdge s).ee.program := by rw [hee, Eeprom.afterCommand_program]
  refine ⟨t, hexec, hshape.eq_resetFrame, hshape.2.2, hmem, hprogram, fun hruns => ⟨?_, ?_⟩, fun hwren => ?_,
    fun hread => ?_, ?_⟩
  · rw [hmem, resetEdge_mem hruns]
  · rw [hprogram, resetEdge_program, hruns]
    rfl
  · rw [hee, Eeprom.afterCommand_writeEnabled hwren]
    rfl
  · rw [hee]
    refine Eeprom.afterCommand_eq (fun a m h => ?_) _
    subst h
    exact hread (by simpa using hi)
  · rintro rfl
    exact hee

/-! ## The returned bytes -/

/-- Settles O47: the four bytes of the command and the address return draws, the others the array's. -/
theorem readCommandReturnsBytes : Obligations.ReadCommandReturnsBytes := by
  intro s start count hidle hfit hsize
  have hreset := resetEdge_ee_idle hidle
  have hbus := programmerFrame_busRx_read start count (Eeprom.busy_eq_false (by rw [hreset]; exact hidle)) hfit hsize
  refine ⟨_, rfl, (programmerFrame_shape _ s).eq_resetFrame, ?_, ?_, ?_⟩
  · rw [hbus, List.length_append, List.length_map, List.length_map, List.length_range, List.length_range]
  · rw [hbus, List.drop_left' (by rw [List.length_map, List.length_range]), hreset]
  · rw [programmerFrame_ee_read, hreset, BitVec.ofNat_add, BitVec.ofNat_toNat, BitVec.setWidth_eq]
    rfl

/-- Settles O49: the one byte of WREN is the first draw. -/
theorem wrenEnablesProgram : Obligations.WrenEnablesProgram := fun s =>
  ⟨_, rfl, rfl, programmerFrame_busRx_of_ne_read (bytes := frameBytes .wren) (by decide) s⟩

/-- Settles O51: RDID's four bytes are four draws in a row. -/
theorem rdidReturnsThreeDraws : Obligations.RdidReturnsThreeDraws := by
  intro s
  refine ⟨_, rfl, ?_⟩
  rw [programmerFrame_busRx_of_ne_read (by decide)]
  rfl

/-- Bit 0 of a status byte is WIP (R62). -/
theorem statusByte_getLsbD_zero (wip : Bool) (d : Byte) : (statusByte wip d).getLsbD 0 = wip := by
  cases wip <;> simp [statusByte]

/-- Bits 7..1 of a status byte are the draw's (R62). -/
theorem statusByte_getLsbD_pos (wip : Bool) (d : Byte) {j : Nat} (hj : 1 ≤ j) :
    (statusByte wip d).getLsbD j = d.getLsbD j := by
  by_cases hlt : j < 8
  · cases wip <;> interval_cases j <;> simp [statusByte]
  · rw [BitVec.getLsbD_of_ge _ _ (by omega), BitVec.getLsbD_of_ge _ _ (by omega)]

/-- What RDSR returns: a draw, then status bytes made of the next draws (R62). -/
theorem exec_rdsr_busRx (count : Nat) (s : State) : ∃ t, exec (.rdsr count) s = .next t ∧
    t.busRx = Config.freeByte s.draws ::
      (List.range count).map fun k => statusByte (resetEdge s).ee.busy (Config.freeByte (s.draws + 1 + k)) := by
  have hread := rdsr_headD_ne_read count
  have hlen : (frameBytes (.rdsr count)).length = count + 1 := by simp [frameBytes, encode]
  refine ⟨_, rfl, ?_⟩
  dsimp only
  rw [programmerFrame_busRx_of_ne_read hread, programmerFrame_ee_of_ne_read hread, hlen, List.range_succ_eq_map]
  simp [Nat.add_assoc, Nat.add_comm 1]

/-- Settles O50: WIP is what the reset edge leaves of the program cycle, for all bytes of the transaction. -/
theorem rdsrReturnsStatus : Obligations.RdsrReturnsStatus := by
  intro s count
  obtain ⟨t, hexec, hbus⟩ := exec_rdsr_busRx count s
  refine ⟨t, hexec, ?_, fun k hk => ⟨statusByte (resetEdge s).ee.busy (Config.freeByte (s.draws + 1 + k)), ?_, ?_,
    fun j hj => statusByte_getLsbD_pos _ _ hj⟩⟩
  · rw [hbus, List.length_cons, List.length_map, List.length_range]
  · rw [hbus, List.getElem?_cons_succ, List.getElem?_map, List.getElem?_range hk, Option.map_some]
  · rw [statusByte_getLsbD_zero, Eeprom.busy_iff, resetEdge_program]
    cases s.held.progDone <;> simp

end Sys2Proof.Machine
end

section
/-! PROOFS. PP (R61): the cells of its program cycle, then the edge at which the cycle completes. -/

namespace Sys2Proof.Machine

/-! ## The cells of the program cycle -/

/-- The cells that a well-formed PP adds to the program cycle. -/
def ppCells (start : EeAddr) (data : List Byte) (s : State) : List Host.Cell :=
  (programCells start.toNat data (programmerFrame (frameBytes (.pp start data)) s)).1

theorem programmerFrame_pp_ee (start : EeAddr) (data : List Byte) (s : State) :
    (programmerFrame (frameBytes (.pp start data)) s).ee = (resetEdge s).ee :=
  programmerFrame_ee_of_ne_read (bytes := Cmd.pp :: _) (show Cmd.pp ≠ Cmd.read by decide) s

/-- Choosing the cells only draws. -/
theorem programCells_ee (a : Nat) (data : List Byte) (s : State) : (programCells a data s).2.ee = s.ee := by
  unfold programCells
  split_ifs
  · exact drawCells_ee _ s
  · rfl
  · exact drawCells_ee _ s

/-- A well-formed PP in every state: the device is the reset edge's, but that it is busy with the cells and that the write
enable is used up (R60, R61). -/
theorem exec_pp_ee {start : EeAddr} {data : List Byte} (hwf : (Instr.pp start data).wf = true) (s : State) :
    ∃ t, exec (.pp start data) s = .next t ∧ ResetShape s t ∧
      t.ee = { (resetEdge s).ee with
        program := (resetEdge s).ee.program ++ ppCells start data s, writeEnabled := false } := by
  refine ⟨_, if_pos hwf, startProgram_shape _ _ (programmerFrame_shape _ s), ?_⟩
  rw [startProgram]
  dsimp only
  rw [programCells_ee, programmerFrame_pp_ee]
  rfl

/-- The cells stand at the addressed bytes, or fill the pages that these cross (R61, K12). -/
theorem programCells_addresses (a : Nat) (data : List Byte) (s : State) :
    (programCells a data s).1.map Prod.fst =
      if pageOf a ≠ pageOf (a + data.length - 1) then pageSpan (pageOf a) (pageOf (a + data.length - 1))
      else span a data.length := by
  unfold programCells
  split_ifs
  · exact drawCells_addresses _ s
  · exact List.map_fst_zip (by rw [span, List.length_range'])
  · exact drawCells_addresses _ s

/-- Every cell lies in a page of the addressed bytes, modulo 2^24 (K12). -/
theorem mem_ppCells {start : EeAddr} {data : List Byte} {s : State} {c : Host.Cell} (hc : c ∈ ppCells start data s) :
    ∃ a, c.1 = a % 2 ^ 24 ∧ start.toNat / 128 ≤ a / 128 ∧ a / 128 ≤ (start.toNat + data.length - 1) / 128 := by
  have haddr : c.1 ∈ (ppCells start data s).map Prod.fst := List.mem_map_of_mem hc
  rw [ppCells, programCells_addresses] at haddr
  split_ifs at haddr with hcross
  · exact mem_pageSpan haddr
  · rw [span, List.mem_range'_1] at haddr
    have hstart := start.isLt
    simp only [pageOf, not_not] at hcross
    exact ⟨c.1, by omega, by omega, by omega⟩

/-- After a WREN, on an idle device and inside one page, the cells are the bytes sent (R61). -/
theorem ppCells_enabled {start : EeAddr} {data : List Byte} {s : State}
    (hpage : start.toNat / 128 = (start.toNat + data.length - 1) / 128) (hen : s.ee.writeEnabled = true)
    (hidle : s.ee.program = []) : ppCells start data s = (span start.toNat data.length).zip data := by
  have hone : pageOf start.toNat = pageOf (start.toNat + data.length - 1) := hpage
  have hready : (programmerFrame (frameBytes (.pp start data)) s).ee.writeEnabled = true ∧
      (programmerFrame (frameBytes (.pp start data)) s).ee.busy = false := by
    rw [programmerFrame_pp_ee, resetEdge_ee_idle hidle]
    exact ⟨hen, Eeprom.busy_eq_false hidle⟩
  rw [ppCells, programCells, if_neg (not_not.2 hone), if_pos hready]

theorem exec_pp_enabled {start : EeAddr} {data : List Byte} {s : State} (hwf : (Instr.pp start data).wf = true)
    (hpage : start.toNat / 128 = (start.toNat + data.length - 1) / 128) (hen : s.ee.writeEnabled = true)
    (hidle : s.ee.program = []) :
    ∃ t, exec (.pp start data) s = .next t ∧ ResetShape s t ∧ t.ee.mem = s.ee.mem ∧ t.ee.writeEnabled = false ∧
      t.ee.program = (span start.toNat data.length).zip data := by
  obtain ⟨t, hexec, hshape, hee⟩ := exec_pp_ee hwf s
  rw [ppCells_enabled hpage hen hidle, resetEdge_ee_idle hidle] at hee
  refine ⟨t, hexec, hshape, by rw [hee], by rw [hee], ?_⟩
  rw [hee, hidle, List.nil_append]

/-- Cell `k` of the bytes sent. -/
theorem getElem?_span_zip (a : Nat) (data : List Byte) {k : Nat} (hk : k < data.length) :
    ((span a data.length).zip data)[k]? = some (a + k, data[k]) := by
  rw [List.getElem?_zip_eq_some]
  refine ⟨?_, List.getElem?_eq_getElem hk⟩
  rw [span, List.getElem?_range' hk, Nat.one_mul]

/-- Settles O52: the cells are the bytes sent, one after the other. -/
theorem ppStartsProgramCycle : Obligations.PpStartsProgramCycle := by
  intro s start data hwf hpage hen hidle
  obtain ⟨t, hexec, hshape, hmem, hused, hprogram⟩ := exec_pp_enabled hwf hpage hen hidle
  refine ⟨t, hexec, hshape.eq_resetFrame, hshape.2.2, hmem, hused, ?_, fun k hk => ?_⟩
  · rw [hprogram, List.length_zip, span, List.length_range', Nat.min_self]
  · rw [hprogram, getElem?_span_zip _ _ hk]

/-! ## The edge that completes the cycle -/

theorem step_resetOnly {s : State} {held : Held} (hadm : s.cfg.failing = none) (hr : s.inputs.reset = some held)
    (hbus : held.frame = none) : step s = .next (resetEdge s) := by
  simp [step, fetch, hadm, hr, hbus]

/-- An edge with `rst = 1` at which the cycle completes and the bus is idle: the cells inside the array are written (R61). -/
theorem step_completes_cycle {t : State} (hadm : t.cfg.failing = none) :
    ∃ u, step { t with stim := { btn := true, reset := some { progDone := true } } :: t.stim } = .next u ∧
      u.ee.program = [] ∧
      u.ee.mem = Memory.writeAll t.ee.mem (t.ee.program.filter fun c => decide (c.1 < t.cfg.eeSize)) :=
  ⟨_, step_resetOnly hadm rfl rfl, rfl, rfl⟩

/-- That edge changes no address outside the array, and none that no pending cell has. -/
theorem read_writeAll_unaddressed {m : Memory} {cells : List Host.Cell} {size a : Nat}
    (ha : size ≤ a ∨ ∀ c ∈ cells, c.1 ≠ a) :
    Memory.read (Memory.writeAll m (cells.filter fun c => decide (c.1 < size))) a = Memory.read m a := by
  refine Memory.read_writeAll_other fun c hc => ?_
  obtain ⟨hcell, hlt⟩ := List.mem_filter.1 hc
  rcases ha with hout | hfree
  · have := of_decide_eq_true hlt
    omega
  · exact hfree c hcell

/-- Of writes to different addresses each one is read back. -/
theorem Memory.read_writeAll_mem {m : Memory} {cells : List Host.Cell} (hm : m.wf = true)
    (hdistinct : (cells.map Prod.fst).Nodup) {a : Nat} {b : Byte} (hcell : (a, b) ∈ cells) :
    Memory.read (Memory.writeAll m cells) a = b := by
  induction cells generalizing m with
  | nil => cases hcell
  | cons c rest ih =>
    obtain ⟨hfirst, hrest⟩ := List.nodup_cons.1 hdistinct
    rcases List.mem_cons.1 hcell with rfl | hlater
    · calc Memory.read (Memory.writeAll (Memory.write m a b) rest) a
        _ = Memory.read (Memory.write m a b) a :=
            Memory.read_writeAll_other fun x hx heq => hfirst (List.mem_map.2 ⟨x, hx, heq⟩)
        _ = b := Memory.read_write_same a b hm
    · exact ih (Memory.wf_write c.1 c.2 hm) hrest hlater

/-- The bytes sent that lie in the array are read back from it. -/
theorem read_writeAll_span_zip {m : Memory} {a size : Nat} (data : List Byte) (hm : m.wf = true) {k : Nat}
    (hk : k < data.length) (hin : a + k < size) :
    Memory.read (Memory.writeAll m (((span a data.length).zip data).filter fun c => decide (c.1 < size))) (a + k) =
      data[k] := by
  have hspan : (((span a data.length).zip data).map Prod.fst).Nodup := by
    rw [List.map_fst_zip (by rw [span, List.length_range'])]
    exact List.nodup_range'
  have hcell : (a + k, data[k]) ∈ (span a data.length).zip data := List.mem_of_getElem? (getElem?_span_zip a data hk)
  exact Memory.read_writeAll_mem hm (hspan.sublist (List.filter_sublist.map _))
    (List.mem_filter.2 ⟨hcell, decide_eq_true hin⟩)

theorem ResetShape.cfg {s t : State} (h : ResetShape s t) : t.cfg = s.cfg := by rw [h.1]; rfl

/-- Settles O53: the completing edge writes the cells that lie in the array, which have different addresses. -/
theorem ppProgramsTheArray : Obligations.PpProgramsTheArray := by
  intro s start data hadm hmwf hwf hpage hen hidle
  obtain ⟨t, hexec, hshape, hmem, -, hprogram⟩ := exec_pp_enabled hwf hpage hen hidle
  obtain ⟨u, hstep, hdone, humem⟩ := step_completes_cycle (hshape.cfg.symm ▸ hadm)
  rw [hmem, hprogram, hshape.cfg] at humem
  refine ⟨t, u, hexec, hstep, hdone, fun k hk hin => ?_, fun a ha => ?_⟩
  · rw [humem, read_writeAll_span_zip data hmwf hk hin]
  · have houtside : s.cfg.eeSize ≤ a ∨ ∀ c ∈ (span start.toNat data.length).zip data, c.1 ≠ a := by
      rcases or_assoc.2 ha with hspan | hout
      · refine .inr fun c hc heq => ?_
        have haddr := (List.of_mem_zip hc).1
        rw [span, List.mem_range'_1] at haddr
        omega
      · exact .inl hout
    rw [humem, read_writeAll_unaddressed houtside]

/-- Settles O54: the pending cells of every PP, and the completing edge at every other address. -/
theorem ppStaysInItsPages : Obligations.PpStaysInItsPages := by
  intro s start data hwf
  obtain ⟨t, hexec, hshape, hee⟩ := exec_pp_ee hwf s
  refine ⟨t, hexec, hshape.eq_resetFrame, hshape.2.2, hshape.2.1, by rw [hee], fun c hc => ?_, fun hadm => ?_⟩
  · rw [hee] at hc
    exact (List.mem_append.1 hc).imp_right mem_ppCells
  · obtain ⟨u, hstep, -, humem⟩ := step_completes_cycle (hshape.cfg.symm ▸ hadm)
    refine ⟨u, hstep, fun a ha => ?_⟩
    rw [humem, hshape.cfg, read_writeAll_unaddressed ha]

end Sys2Proof.Machine
end

section
/-! PROOFS. The counters and the PWM at an edge: the carrier and the sample counter (R64, R65), the overflow flag (R67), the
compare latch (R68) and the port `pwm_out` (R69). -/

namespace Sys2Proof.Machine

/-! ## The rule of each register -/

section
variable {s : State}

theorem nextCntP_stopped (hper : s.perP = 0) : nextCntP s = s.cntP := if_neg (not_not_intro hper)

theorem nextCntP_running (hper : s.perP ≠ 0) :
    nextCntP s = BitVec.ofNat 8 ((s.cntP.toNat + 1) % s.perP.toNat) :=
  if_pos hper

/-- Modulo 256 the carrier counter is 8-bit addition. -/
theorem nextCntP_of_perP_256 (hper : s.perP = 256) : nextCntP s = s.cntP + 1 := by
  rw [nextCntP_running (by rw [hper]; decide), hper]
  apply BitVec.eq_of_toNat_eq
  simp

theorem nextCntS_stopped (hper : s.perS = 0) : nextCntS s = s.cntS := if_neg (not_not_intro hper)

theorem nextCntS_running (hper : s.perS ≠ 0) :
    nextCntS s = BitVec.ofNat 16 ((s.cntS.toNat + 1) % s.perS.toNat) :=
  if_pos hper

theorem nextCntS_of_tickNow (htick : s.tickNow) : nextCntS s = 0 := by
  obtain ⟨hper, htop⟩ := htick
  rw [nextCntS_running hper, htop, Nat.mod_self]
  rfl

/-- Whether it runs, wraps or is stopped, the sample counter goes up by at most 1. -/
theorem nextCntS_le (s : State) : (nextCntS s).toNat ≤ s.cntS.toNat + 1 := by
  by_cases hper : s.perS = 0
  · rw [nextCntS_stopped hper]
    exact Nat.le_succ _
  · rw [nextCntS_running hper, BitVec.toNat_ofNat]
    exact (Nat.mod_le _ _).trans (Nat.mod_le _ _)

theorem ovfEvent_eq_false (htick : ¬ s.tickNow) : ovfEvent s = false :=
  Bool.eq_false_iff.2 (mt (ovfEvent_iff s).1 htick)

/-- A set wins (R67). -/
theorem nextOvf_of_tickNow (q : SeqCode) (htick : s.tickNow) : nextOvf q s = true :=
  if_pos ((ovfEvent_iff s).2 htick)

theorem nextOvf_of_clear (htick : ¬ s.tickNow) (hovf : s.ovf = true) : nextOvf Code.sWait s = false := by
  simp [nextOvf, ovfEvent_eq_false htick, ovfClear, hovf]

theorem nextOvf_of_no_clear {q : SeqCode} (htick : ¬ s.tickNow) (hclear : ¬ (q = Code.sWait ∧ s.ovf = true)) :
    nextOvf q s = s.ovf := by
  have hclr : ovfClear q s = false := by simpa [ovfClear] using hclear
  simp [nextOvf, ovfEvent_eq_false htick, hclr]

theorem nextCmpAct_of_wrapNow (hwrap : s.wrapNow) : nextCmpAct s = s.cmpBuf := if_pos ((carrierWrap_iff s).2 hwrap)

theorem nextCmpAct_of_not_wrapNow (hwrap : ¬ s.wrapNow) : nextCmpAct s = s.cmpAct :=
  if_neg (mt (carrierWrap_iff s).1 hwrap)

end

/-! ## What the state rules leave of them -/

section
variable {q : SeqCode} {s t : State}

theorem EdgeKept.cntP_eq (k : EdgeKept q s t) (hq : q ≠ Code.armStart) : t.cntP = nextCntP s := k.cntP.trans (if_neg hq)

theorem EdgeKept.cntS_eq (k : EdgeKept q s t) (hq : q ≠ Code.armStart) : t.cntS = nextCntS s := k.cntS.trans (if_neg hq)

theorem EdgeKept.ovf_eq (k : EdgeKept q s t) (hq : q ≠ Code.armStart) : t.ovf = nextOvf q s := k.ovf.trans (if_neg hq)

theorem EdgeKept.cmpAct_eq (k : EdgeKept q s t) (hq : q ≠ Code.armStart) : t.cmpAct = nextCmpAct s :=
  k.cmpAct.trans (if_neg hq)

end

/-- Settles O18: ARM_START's override, else the rule of R64 in its cases. -/
theorem carrierCounterAdvances : Obligations.CarrierCounterAdvances := by
  intro q s
  obtain ⟨t, hexec, k⟩ := exec_seq_kept q s
  exact ⟨t, hexec,
    fun hq => k.cntP.trans (if_pos hq),
    fun hq hstopped => (k.cntP_eq hq).trans (nextCntP_stopped hstopped),
    fun hq hruns => (k.cntP_eq hq).trans (nextCntP_running hruns),
    fun hq hper => (k.cntP_eq hq).trans (nextCntP_of_perP_256 hper),
    carrierWrap_iff s⟩

/-- Settles O19: ARM_START's override, else the rule of R65 in its cases; at the tick the counter stands at its last value. -/
theorem sampleCounterAdvances : Obligations.SampleCounterAdvances := by
  intro q s
  obtain ⟨t, hexec, k⟩ := exec_seq_kept q s
  exact ⟨t, hexec,
    fun hq => k.cntS.trans (if_pos hq),
    fun hq hstopped => (k.cntS_eq hq).trans (nextCntS_stopped hstopped),
    fun hq hruns => (k.cntS_eq hq).trans (nextCntS_running hruns),
    fun hq htick => (k.cntS_eq hq).trans (nextCntS_of_tickNow htick)⟩

/-- Settles O20: ARM_START's override, else R67's chain from the top. -/
theorem overflowFlagSetWins : Obligations.OverflowFlagSetWins := by
  intro q s
  obtain ⟨t, hexec, k⟩ := exec_seq_kept q s
  refine ⟨t, hexec, fun hq => k.ovf.trans (if_pos hq),
    fun hq htick => (k.ovf_eq hq).trans (nextOvf_of_tickNow q htick), ?_,
    fun hq htick hclear => (k.ovf_eq hq).trans (nextOvf_of_no_clear htick hclear)⟩
  rintro hq htick rfl hovf
  exact (k.ovf_eq hq).trans (nextOvf_of_clear htick hovf)

/-- Settles O21: R68 at a wrap and R70 at ARM_START load the same value, so a wrap at ARM_START needs no order between them. -/
theorem compareLatchAtWrap : Obligations.CompareLatchAtWrap := by
  intro q s
  obtain ⟨t, hexec, k⟩ := exec_seq_kept q s
  refine ⟨t, hexec, fun hload => ?_, fun hwrap hq => (k.cmpAct_eq hq).trans (nextCmpAct_of_not_wrapNow hwrap)⟩
  by_cases hq : q = Code.armStart
  · exact k.cmpAct.trans (if_pos hq)
  · exact (k.cmpAct_eq hq).trans (nextCmpAct_of_wrapNow (hload.resolve_right hq))

/-! ## The port `pwm_out` -/

theorem pwmOut_iff (s : State) : s.pwmOut = true ↔ s.perP ≠ 0 ∧ s.cntP.toNat < s.cmpAct.toNat := decide_eq_true_iff

/-- Of the first `n` numbers, `k` lie below `k`. -/
theorem length_filter_lt_range {n k : Nat} (hk : k ≤ n) :
    ((List.range n).filter fun c => decide (c < k)).length = k := by
  rw [← List.Ico.zero_bot, List.Ico.filter_lt, List.Ico.length, min_eq_right hk, Nat.sub_zero]

/-- Settles O57: with the carrier running the output compares the counter with `cmp_act`, which is one of the 256 values. -/
theorem pwmHighForDutyCounts : Obligations.PwmHighForDutyCounts := by
  refine fun s => ⟨pwmOut_iff s, fun hruns => ?_⟩
  have hcompare : ∀ c ∈ List.range 256,
      State.pwmOut { s with cntP := BitVec.ofNat 8 c } = decide (c < s.cmpAct.toNat) := by
    intro c hc
    have hvalue : (BitVec.ofNat 8 c).toNat = c :=
      (BitVec.toNat_ofNat c 8).trans (Nat.mod_eq_of_lt (List.mem_range.1 hc))
    rw [Bool.eq_iff_iff, pwmOut_iff, hvalue, decide_eq_true_iff]
    exact and_iff_right hruns
  rw [List.filter_congr hcompare]
  exact length_filter_lt_range s.cmpAct.isLt.le

end Sys2Proof.Machine
end

section
/-! PROOFS. The timing contract (R128): when the next overflow event is still away, how the sequencer enters each state of
STREAMING, and from both that LATE and OVR stay clear. -/

namespace Sys2Proof.Machine

/-! ## The sample counter and the flag under the invariants -/

section
variable {q : SeqCode} {s t : State}

/-- With the sample counter below its last value there is no event: a running period is `SAMPLE_PERIOD` (I3, R66). -/
theorem State.Inv.not_tickNow (hinv : s.Inv) (hearly : s.cntS.toNat + 1 < s.cfg.samplePeriod) : ¬ s.tickNow := by
  rintro ⟨hruns, htop⟩
  obtain ⟨-, hstopped⟩ | ⟨-, hper⟩ := hinv.periods
  · exact hruns hstopped
  · omega

/-- ARM_START's override included, the sample counter goes up by at most 1. -/
theorem EdgeKept.cntS_le (k : EdgeKept q s t) : t.cntS.toNat ≤ s.cntS.toNat + 1 := by
  rw [k.cntS]
  split
  · exact Nat.zero_le _
  · exact nextCntS_le s

theorem EdgeKept.ovf_stays_clear (k : EdgeKept q s t) (hovf : s.ovf = false) (htick : ¬ s.tickNow) : t.ovf = false := by
  rw [k.ovf]
  split
  · rfl
  · rw [nextOvf_of_no_clear htick (by simp [hovf]), hovf]

/-- Where the flag comes up, the sample counter has just wrapped. -/
theorem EdgeKept.cntS_of_ovf_rises (k : EdgeKept q s t) (hovf : s.ovf = false) (hset : t.ovf = true) : t.cntS = 0 := by
  have htick : s.tickNow := by
    by_contra hno
    simp [k.ovf_stays_clear hovf hno] at hset
  rw [k.cntS]
  split
  · rfl
  · exact nextCntS_of_tickNow htick

end

/-! ## How the sequencer moves in STREAMING -/

/-- The codes S_CHECK to S_WAIT (R16). -/
abbrev inStreaming (q : SeqCode) : Prop := Code.sCheck ≤ q ∧ q ≤ Code.sWait

theorem inStreaming_cases {q : SeqCode} (hq : inStreaming q) :
    q = Code.sCheck ∨ q = Code.sFetch ∨ q = Code.sDuty ∨ q = Code.sLed ∨ q = Code.sWait := by
  revert q
  decide

/-- The ways an edge with `rst = 0` can arrive in a state of STREAMING (R82 to R87), and the moves that arrive elsewhere. -/
inductive StreamMove (s t : State) : Prop where
  | start (hs : s.seq = Code.armStart) (ht : t.seq = Code.sCheck)
  | check (hs : s.seq = Code.sCheck) (ht : t.seq = Code.sFetch) (hw : t.wcnt = s.wcnt)
  | fetching (hs : s.seq = Code.sFetch) (ht : t.seq = Code.sFetch) (hw : t.wcnt = s.wcnt + 1)
      (hmore : s.wcnt.toNat < s.cfg.spiByteCycles.toNat - 1)
  | fetched (hs : s.seq = Code.sFetch) (ht : t.seq = Code.sDuty)
  | duty (hs : s.seq = Code.sDuty) (ht : t.seq = Code.sLed)
  | led (hs : s.seq = Code.sLed) (ht : t.seq = Code.sWait)
  | waiting (hs : s.seq = Code.sWait) (ht : t.seq = Code.sWait) (hovf : s.ovf = false)
  | consumed (hs : s.seq = Code.sWait) (ht : t.seq = Code.sCheck) (hovf : s.ovf = true)
  | outside (q : SeqCode) (ht : t.seq = q) (hq : ¬ inStreaming q)

/-- A state of several cycles outside STREAMING, with a successor outside it. -/
theorem streamMove_multiCycle {s : State} {p q : SeqCode} {cost : BitVec 32} {f : State → State} (hs : s.seq = p)
    (hp : ¬ inStreaming p) (hq : ¬ inStreaming q) (hf : ∀ u, (f u).seq = q) : StreamMove s (multiCycle cost p f s) := by
  rcases multiCycle_cases cost p f s with ⟨-, hstay⟩ | ⟨-, hdone⟩
  · rw [hstay]
    exact .outside p hs hp
  · rw [hdone]
    exact .outside q (hf _) hq

theorem streamMove_execSFetch {s : State} (hs : s.seq = Code.sFetch) : ∃ t, execSFetch s = .next t ∧ StreamMove s t := by
  refine ⟨_, rfl, ?_⟩
  rcases multiCycle_cases s.cfg.spiByteCycles Code.sFetch _ s with ⟨hmore, hstay⟩ | ⟨-, hdone⟩
  · rw [hstay]
    exact .fetching hs hs rfl hmore
  · rw [hdone]
    exact .fetched hs rfl

/-- The state rule of `seq` makes one of these moves. -/
theorem exec_seq_streamMove (s : State) : ∃ t, exec (decodeSeq s.seq) s = .next t ∧ StreamMove s t := by
  rcases seqCode_cases s.seq with (hs | hs | hs | hs | hs | hs | hs) | (hs | hs | hs | hs | hs) |
    (hs | hs | hs | hs | hs) | hs
  case inr.inr.inr => exact ⟨_, exec_illegal s.seq hs s, .outside Code.idle rfl (by decide)⟩
  all_goals rw [hs]
  · refine ⟨_, rfl, ?_⟩
    split
    · exact .outside Code.armLoad rfl (by decide)
    · exact .outside Code.idle rfl (by decide)
  · exact ⟨_, rfl, .outside Code.armCmd rfl (by decide)⟩
  · exact ⟨_, rfl, streamMove_multiCycle (q := Code.armAddr2) hs (by decide) (by decide) fun _ => rfl⟩
  · exact ⟨_, rfl, streamMove_multiCycle (q := Code.armAddr1) hs (by decide) (by decide) fun _ => rfl⟩
  · exact ⟨_, rfl, streamMove_multiCycle (q := Code.armAddr0) hs (by decide) (by decide) fun _ => rfl⟩
  · exact ⟨_, rfl, streamMove_multiCycle (q := Code.armStart) hs (by decide) (by decide) fun _ => rfl⟩
  · exact ⟨_, rfl, .start hs rfl⟩
  · refine ⟨_, rfl, ?_⟩
    split
    · exact .outside Code.dStop rfl (by decide)
    · exact .check hs rfl rfl
  · exact streamMove_execSFetch hs
  · exact ⟨_, rfl, .duty hs rfl⟩
  · exact ⟨_, rfl, .led hs rfl⟩
  · refine ⟨_, rfl, ?_⟩
    split
    · next hovf => exact .consumed hs rfl hovf
    · next hovf => exact .waiting hs rfl (Bool.eq_false_iff.2 hovf)
  · exact ⟨_, rfl, .outside Code.dCsoff rfl (by decide)⟩
  · exact ⟨_, rfl, .outside Code.dLedon rfl (by decide)⟩
  · exact ⟨_, rfl, .outside Code.dAdvance rfl (by decide)⟩
  · exact ⟨_, rfl, .outside Code.dSettle rfl (by decide)⟩
  · exact ⟨_, rfl, streamMove_multiCycle (q := Code.idle) hs (by decide) (by decide) fun _ => rfl⟩

/-! ## The diagnostic bits -/

section
variable {s t : State}

/-- Before S_WAIT the tick of the sample under way has not come. -/
theorem State.OnTime.ovf_eq_false (h : s.OnTime) (hseq : inStreaming s.seq) (hne : s.seq ≠ Code.sWait) : s.ovf = false := by
  rcases inStreaming_cases hseq with hs | hs | hs | hs | hs
  · exact (h.check hs).1
  · exact (h.fetch hs).1
  · exact (h.duty hs).1
  · exact (h.led hs).1
  · exact absurd hs hne

/-- OVR is not raised: before S_WAIT the flag is clear, and S_WAIT consumes it (R106). -/
theorem State.OnTime.ovrEvent_eq_false (h : s.OnTime) : ovrEvent s.seq s = false := by
  rw [Bool.eq_false_iff]
  intro hraised
  simp only [ovrEvent, ovfClear, Bool.and_eq_true, Bool.not_eq_true', Bool.and_eq_false_iff, decide_eq_true_eq,
    decide_eq_false_iff_not] at hraised
  obtain ⟨⟨⟨-, hovf⟩, hkeeps⟩, hseq⟩ := hraised
  rcases hkeeps with hne | hno
  · simp [h.ovf_eq_false hseq hne] at hovf
  · simp [hno] at hovf

/-- LATE is not raised: the event is still away in S_CHECK and in S_FETCH (R105). -/
theorem State.OnTime.lateEvent_eq_false (h : s.OnTime) (hinv : s.Inv) (hcontract : meetsContract s.cfg) :
    lateEvent s.seq s = false := by
  have hquiet : s.seq = Code.sFetch ∨ s.seq = Code.sCheck → ovfEvent s = false := by
    rintro (hs | hs)
    · obtain ⟨-, hwcnt, hcnt⟩ := h.fetch hs
      exact ovfEvent_eq_false (hinv.not_tickNow (by omega))
    · obtain ⟨-, hcnt⟩ := h.check hs
      exact ovfEvent_eq_false (hinv.not_tickNow (by omega))
  rw [Bool.eq_false_iff]
  intro hraised
  simp only [lateEvent, Bool.and_eq_true, Bool.or_eq_true, decide_eq_true_eq] at hraised
  obtain ⟨hevent, hseq⟩ := hraised
  simp [hquiet (hseq.imp_right And.left)] at hevent

theorem State.OnTime.bits_stay_clear (h : s.OnTime) (hinv : s.Inv) (hcontract : meetsContract s.cfg)
    (k : EdgeKept s.seq s t) : t.faultLate = false ∧ t.faultOvr = false := by
  rw [k.late, k.ovr, h.lateEvent_eq_false hinv hcontract, h.ovrEvent_eq_false, h.late, h.ovr]
  exact ⟨rfl, rfl⟩

/-! ## The counter ranges -/

/-- `State.OnTime` beside the diagnostic bits, with the code of `seq` as an argument: at a known code a clause that it does not
ask is closed by evaluation and can be left out. -/
structure State.OnTimeAt (q : SeqCode) (s : State) : Prop where
  check : q = Code.sCheck → s.ovf = false ∧ s.cntS.toNat ≤ 1 := by exact Not.elim (by decide)
  fetch : q = Code.sFetch →
    s.ovf = false ∧ s.wcnt.toNat < s.cfg.spiByteCycles.toNat ∧ s.cntS.toNat ≤ s.wcnt.toNat + 2 := by
      exact Not.elim (by decide)
  duty : q = Code.sDuty → s.ovf = false ∧ s.cntS.toNat ≤ s.cfg.spiByteCycles.toNat + 2 := by
    exact Not.elim (by decide)
  led : q = Code.sLed → s.ovf = false ∧ s.cntS.toNat ≤ s.cfg.spiByteCycles.toNat + 3 := by
    exact Not.elim (by decide)
  wait : q = Code.sWait → s.ovf = true → s.cntS = 0 := by exact Not.elim (by decide)

theorem State.OnTimeAt.of_outside {q : SeqCode} (hq : ¬ inStreaming q) : t.OnTimeAt q := by
  have hne {c : SeqCode} (hc : inStreaming c) : q ≠ c := by
    rintro rfl
    exact hq hc
  exact
    { check := Not.elim (hne (by decide))
      fetch := Not.elim (hne (by decide))
      duty := Not.elim (hne (by decide))
      led := Not.elim (hne (by decide))
      wait := Not.elim (hne (by decide)) }

/-- Each move brings the sample counter into the range of the state it arrives in; S_LED to S_WAIT is the first edge at which
the event may come (R94, R128). -/
theorem StreamMove.onTimeAt (hmove : StreamMove s t) (k : EdgeKept s.seq s t) (hinv : s.Inv) (h : s.OnTime)
    (hcontract : meetsContract s.cfg) : t.OnTimeAt t.seq := by
  have hcntS := k.cntS_le
  have hcfg := k.cfg
  cases hmove with
  | start hs ht =>
    rw [hs] at k
    rw [ht]
    exact { check := fun _ => ⟨k.ovf, by rw [k.cntS]; exact Nat.zero_le _⟩ }
  | check hs ht hw =>
    obtain ⟨-, -, -, hspi, -⟩ := (failing_eq_none_iff_ok s.cfg).1 hinv.admitted
    obtain ⟨hovf, hcnt⟩ := h.check hs
    have hwcnt : t.wcnt.toNat = 0 := by rw [hw, hinv.wcnt_eq_zero hs (by decide)]; rfl
    rw [ht]
    exact { fetch := fun _ =>
      ⟨k.ovf_stays_clear hovf (hinv.not_tickNow (by omega)), by rw [hwcnt, hcfg]; exact hspi, by omega⟩ }
  | fetching hs ht hw hmore =>
    obtain ⟨hovf, -, hcnt⟩ := h.fetch hs
    have hwcnt : t.wcnt.toNat = s.wcnt.toNat + 1 := by
      rw [hw]
      exact BitVec.toNat_add_of_lt (show s.wcnt.toNat + 1 < 2 ^ 32 by omega)
    rw [ht]
    exact { fetch := fun _ =>
      ⟨k.ovf_stays_clear hovf (hinv.not_tickNow (by omega)), by rw [hwcnt, hcfg]; omega, by omega⟩ }
  | fetched hs ht =>
    obtain ⟨hovf, hwcnt, hcnt⟩ := h.fetch hs
    rw [ht]
    exact { duty := fun _ => ⟨k.ovf_stays_clear hovf (hinv.not_tickNow (by omega)), by rw [hcfg]; omega⟩ }
  | duty hs ht =>
    obtain ⟨hovf, hcnt⟩ := h.duty hs
    rw [ht]
    exact { led := fun _ => ⟨k.ovf_stays_clear hovf (hinv.not_tickNow (by omega)), by rw [hcfg]; omega⟩ }
  | led hs ht =>
    obtain ⟨hovf, -⟩ := h.led hs
    rw [ht]
    exact { wait := fun _ => k.cntS_of_ovf_rises hovf }
  | waiting hs ht hovf =>
    rw [ht]
    exact { wait := fun _ => k.cntS_of_ovf_rises hovf }
  | consumed hs ht hovf =>
    have hcnt : s.cntS.toNat = 0 := by rw [h.wait hs hovf]; rfl
    have hclear : t.ovf = false := by
      rw [hs] at k
      exact (k.ovf_eq (by decide)).trans (nextOvf_of_clear (hinv.not_tickNow (by omega)) hovf)
    rw [ht]
    exact { check := fun _ => ⟨hclear, by omega⟩ }
  | outside q ht hq =>
    rw [ht]
    exact .of_outside hq

end

/-- An edge with `rst = 1` ends in IDLE with both diagnostic bits clear (R33). -/
theorem ResetShape.onTime {s t : State} (h : ResetShape s t) : t.OnTime := by
  obtain ⟨hregs, -, -⟩ := h
  exact onTime_of_idle (by rw [hregs]; rfl) (by rw [hregs]; rfl) (by rw [hregs]; rfl)

/-- Settles O13: with `rst = 0` the bits stay clear and the move keeps the counter's range, with `rst = 1` the block is in
IDLE. -/
theorem stepKeepsOnTime : Obligations.StepKeepsOnTime := by
  intro s t hinv htime hcontract hstep
  rcases step_shape hstep with ⟨-, hexec, k⟩ | ⟨-, hreset⟩
  · obtain ⟨u, hu, hmove⟩ := exec_seq_streamMove s
    obtain rfl : u = t := Host.Outcome.next.inj (hu.symm.trans hexec)
    obtain ⟨hlate, hovr⟩ := htime.bits_stay_clear hinv hcontract k
    exact ⟨{ hmove.onTimeAt k hinv htime hcontract with late := hlate, ovr := hovr }, k.cfg.symm ▸ hcontract⟩
  · exact ⟨hreset.onTime, hreset.cfg.symm ▸ hcontract⟩

end Sys2Proof.Machine
end


section
/-! PROOFS. The step with `rst = 0` (R74), and the state rules of one cycle but D_STOP (R76, R77, R82, R83, R85 to R87, R89 to
R91, R93): what each writes beside the edge rules. -/

namespace Sys2Proof.Machine

/-! ## The step -/

/-- With `rst = 0` and the boot order kept, a step is the state rule of `seq` (R74, R124). -/
theorem step_running {s : State} (hadm : s.cfg.failing = none) (hrun : s.inputs.reset = none)
    (hidle : s.ee.program = []) (himage : s.imageProgrammed = true) : step s = exec (decodeSeq s.seq) s := by
  have hfetch : fetch s = .instr (decodeSeq s.seq) := by
    simp [fetch, fetchRunning, hadm, hrun, Eeprom.busy_eq_false hidle, himage]
  rw [step, hfetch]

/-- Settles O5: every code decodes, and the step runs what it decodes to. -/
theorem stepRunsStateOfSeq : Obligations.StepRunsStateOfSeq := fun s hadm hrun hidle himage =>
  ⟨decodeSeq s.seq, rfl, step_running hadm hrun hidle himage⟩

/-! ## IDLE and the illegal codes -/

/-- Settles O28: the pending trigger chooses between the wake and more sleep. -/
theorem idleSleepsUntilTrigger : Obligations.IdleSleepsUntilTrigger := by
  refine fun s => ⟨_, rfl, ?_⟩
  cases hpending : s.trigPend with
  | true => rfl
  | false => rfl

/-- Settles O45: the fifteen rules are one recovery rule, each under its own code. -/
theorem illegalCodesRecover : Obligations.IllegalCodesRecover := by
  intro i hi s
  have hrule : ∃ q, exec i s = recoverIllegal q s := by
    simp only [List.mem_cons, List.not_mem_nil, or_false] at hi
    rcases hi with rfl | rfl | rfl | rfl | rfl | rfl | rfl | rfl | rfl | rfl | rfl | rfl | rfl | rfl | rfl <;>
      exact ⟨_, rfl⟩
  obtain ⟨q, hq⟩ := hrule
  exact ⟨returnToIdle (clockEdge q s), hq, rfl⟩

/-! ## ARMED -/

theorem trackEntry_of_lt_five (p : Params) {i : BitVec 3} (h : i.toNat < 5) : trackEntry p i = p.tracks[i.toNat] :=
  dif_pos h

/-- Settles O29: the fall of chip-select reaches the device, and the descriptor's start goes to `addr`. -/
theorem armLoadOpensTransaction : Obligations.ArmLoadOpensTransaction := by
  refine fun s => ⟨_, rfl, fun htrack => congrArg Track.start (trackEntry_of_lt_five s.cfg htrack), ?_⟩
  rw [setCs_eq]
  simp [edgeFrame]

/-- Settles O34: the writes of CounterStart override the edge rules, and the descriptor's length goes to `rem`. -/
theorem armStartStartsSession : Obligations.ArmStartStartsSession := fun s =>
  ⟨_, rfl, fun htrack => congrArg Track.length (trackEntry_of_lt_five s.cfg htrack), rfl, rfl, rfl, rfl, rfl⟩

/-! ## STREAMING -/

/-- Settles O35: the rule writes `seq` alone. -/
theorem checkTestsRemaining : Obligations.CheckTestsRemaining := fun _ => ⟨_, rfl, rfl⟩

/-- Settles O37: a wrap latches the value from before the edge, and no other code writes the register. -/
theorem dutyWritesCompareBuffer : Obligations.DutyWritesCompareBuffer := by
  refine fun s => ⟨_, rfl, rfl, nextCmpAct_of_wrapNow, fun q hq => ?_⟩
  obtain ⟨u, hexec, k⟩ := exec_seq_kept q s
  exact ⟨u, hexec, k.cmpBuf.trans (if_neg hq)⟩

/-- Settles O17: the step is S_DUTY's rule, and `sample` holds the byte by the agreement of engine and EEPROM. -/
theorem dutyIsTrackByte : Obligations.DutyIsTrackByte := by
  intro s hinv hstr hrun hseq
  have k : s.StreamsAt Code.sDuty := hstr.atCode hseq
  obtain ⟨hidle, himage⟩ := k.ready (by decide)
  have hstep : step s = execSDuty s := by
    rw [step_running hinv.admitted hrun hidle himage, hseq]
    rfl
  exact ⟨_, hstep, k.fetched (by decide)⟩

section
variable {u : State}

/-- Between two updates the ramp only counts (R98). -/
theorem ledRampStep_counting (hmore : u.ledTick.toNat + 1 ≠ u.cfg.ledStepTime) :
    ledRampStep u = { u with ledTick := u.ledTick + 1 } :=
  if_neg hmore

theorem ledRampStep_rising (htick : u.ledTick.toNat + 1 = u.cfg.ledStepTime) (hdir : u.ledDir = .rising) :
    ledRampStep u = { u with
      ledTick := 0, ledStep := u.ledStep + 1
      ledDir := if u.ledStep.toNat + 1 = u.cfg.steps then .falling else .rising } := by
  rw [ledRampStep, if_pos htick, hdir]

/-- The new step is 0 exactly where the old one was 1, also when the register wraps (R98; log entry 20). -/
theorem ledRampStep_falling (htick : u.ledTick.toNat + 1 = u.cfg.ledStepTime) (hdir : u.ledDir = .falling) :
    ledRampStep u = { u with
      ledTick := 0, ledStep := u.ledStep - 1
      ledDir := if u.ledStep.toNat = 1 then .rising else .falling } := by
  have hbottom : u.ledStep - 1 = 0 ↔ u.ledStep.toNat = 1 := by
    rw [sub_eq_zero, ← BitVec.toNat_inj]
    rfl
  simp only [ledRampStep, if_pos htick, hdir, hbottom]

end

theorem ledRampStep_rem (u : State) : (ledRampStep u).rem = u.rem := by rw [ledRampStep_eq]

theorem ledRampStep_cfg (u : State) : (ledRampStep u).cfg = u.cfg := by rw [ledRampStep_eq]

/-- Settles O38: the ramp's three cases, then the output, which reads the new step. -/
theorem ledRampAndOutput : Obligations.LedRampAndOutput := by
  intro s
  refine ⟨_, rfl, ?_, fun hmore => ?_, fun htick => ⟨?_, fun hdir => ?_, fun hdir => ?_⟩, ?_⟩
  · rw [ledRampStep_eq]
    rfl
  · rw [ledRampStep_counting (u := clockEdge Code.sLed s) hmore]
    exact ⟨rfl, rfl, rfl⟩
  · cases hdir : s.ledDir with
    | rising => rw [ledRampStep_rising (u := clockEdge Code.sLed s) htick hdir]; rfl
    | falling => rw [ledRampStep_falling (u := clockEdge Code.sLed s) htick hdir]; rfl
  · rw [ledRampStep_rising (u := clockEdge Code.sLed s) htick hdir]
    exact ⟨rfl, rfl⟩
  · rw [ledRampStep_falling (u := clockEdge Code.sLed s) htick hdir]
    exact ⟨rfl, rfl⟩
  · refine decide_eq_true_iff.trans ?_
    rw [ledRampStep_rem, ledRampStep_cfg]
    rfl

/-- With the flag set S_WAIT clears it, so that afterwards it tells whether an event fell on this edge (R67). -/
theorem nextOvf_sWait_iff {s : State} (hovf : s.ovf = true) : nextOvf Code.sWait s = true ↔ s.tickNow := by
  refine ⟨fun hset => ?_, nextOvf_of_tickNow Code.sWait⟩
  by_contra htick
  rw [nextOvf_of_clear htick hovf] at hset
  exact Bool.false_ne_true hset

/-- Settles O39: the flag before the edge chooses the branch; an event on the edge that clears it sets it again. -/
theorem waitConsumesTick : Obligations.WaitConsumesTick := by
  intro s
  refine ⟨_, rfl, fun hovf => ?_, fun hovf => ?_⟩
  · rw [if_pos hovf]
    exact ⟨rfl, nextOvf_sWait_iff hovf⟩
  · rw [if_neg (Bool.eq_false_iff.1 hovf)]
    rfl

/-! ## DONE -/

/-- Settles O41: the rise of chip-select reaches the device. -/
theorem csoffClosesTransaction : Obligations.CsoffClosesTransaction := by
  refine fun s => ⟨_, rfl, ?_⟩
  rw [setCs_eq]
  simp [edgeFrame]

/-- Settles O42: the rule writes `led_out` and `seq` alone. -/
theorem ledonForcesLed : Obligations.LedonForcesLed := fun _ => ⟨_, rfl, rfl⟩

/-- The next track's index fits the register, so it is the number modulo 5 (R91). -/
theorem nextTrack_toNat (i : BitVec 3) : (nextTrack i).toNat = (i.toNat + 1) % 5 := by
  rw [nextTrack, BitVec.toNat_ofNat]
  omega

/-- Settles O43: the new index is the next one modulo 5, whatever the old one was. -/
theorem advanceWrapsTrack : Obligations.AdvanceWrapsTrack := fun s => ⟨_, rfl, nextTrack_toNat s.trackIdx, rfl⟩

end Sys2Proof.Machine
end

section
/-! PROOFS. The state rules of several cycles (R75, R78 to R81, R84, R92): the cost and the successor of each, the bytes of a
READ at their last edges, and how long D_SETTLE lasts. -/

namespace Sys2Proof.Machine

/-! ## The table of the long states -/

/-- Each long state has the cost and the successor of its row (R53, R75). -/
theorem exec_longState {s : State} {x : Instr × Nat × SeqCode} (hx : x ∈ longStates s.cfg) :
    ∃ cost q f, exec x.1 s = .next (multiCycle cost q f s) ∧ x.2.1 = cost.toNat ∧ ∀ u, (f u).seq = x.2.2 := by
  simp only [longStates, List.mem_cons, List.not_mem_nil, or_false] at hx
  rcases hx with rfl | rfl | rfl | rfl | rfl | rfl <;> exact ⟨_, _, _, rfl, rfl, fun _ => rfl⟩

/-- Five of them exchange a byte; the sixth is D_SETTLE. -/
theorem longStates_cases {p : Params} {x : Instr × Nat × SeqCode} (hx : x ∈ longStates p) :
    (x.1 ∈ [Instr.armCmd, .armAddr2, .armAddr1, .armAddr0, .sFetch] ∧ x.2.1 = p.spiByteCycles.toNat) ∨
    x = (.dSettle, p.settleCycles.toNat, 0x00#5) := by
  simp only [longStates, List.mem_cons, List.not_mem_nil, or_false] at hx
  rcases hx with rfl | rfl | rfl | rfl | rfl | rfl <;> simp

theorem exec_dSettle_last {s : State} (hlast : s.cfg.settleCycles.toNat ≤ s.wcnt.toNat + 1) :
    exec .dSettle s = .next (returnToIdle (lastEdge Code.dSettle s)) :=
  congrArg Host.Outcome.next (multiCycle_last Code.dSettle returnToIdle hlast)

/-- Settles O30: a long state stays or completes; at the last edge a byte state leaves what a byte exchange leaves, D_SETTLE
returns to IDLE. -/
theorem longStatesStayThenComplete : Obligations.LongStatesStayThenComplete := by
  intro s x hx
  obtain ⟨cost, q, f, hexec, hcost, hnext⟩ := exec_longState hx
  refine ⟨fun hmore => ?_, fun hlast => ?_⟩
  · rw [multiCycle, if_pos (hcost ▸ hmore)] at hexec
    exact ⟨_, hexec, rfl⟩
  · have hlast : x.2.1 ≤ s.wcnt.toNat + 1 := Nat.sub_le_iff_le_add.1 hlast
    rcases longStates_cases hx with ⟨hbyte, hspi⟩ | rfl
    · obtain ⟨t, ht, hedge, hsample⟩ := exec_byteState_last hbyte (hspi ▸ hlast)
      have hseq : t.seq = x.2.2 := by
        rw [multiCycle_last q f (hcost ▸ hlast)] at hexec
        rw [← hnext, ← Host.Outcome.next.inj (hexec.symm.trans ht)]
      refine ⟨t, ht, hseq ▸ hedge.rest, hsample, fun hsettle => ?_, hedge.mem, hedge.program, hedge.writeEnabled⟩
      rw [hsettle] at hbyte
      exact absurd hbyte (by decide)
    · exact ⟨_, exec_dSettle_last hlast, rfl, fun _ => rfl, fun _ => ⟨rfl, rfl⟩, rfl, rfl, rfl⟩

/-- Settles O44: the wait is over, and IDLE is all that is left to write. -/
theorem settleReturnsToIdle : Obligations.SettleReturnsToIdle := fun _ hlast => ⟨_, exec_dSettle_last hlast, rfl⟩

/-! ## The bytes of a READ -/

section
variable {s : State} (hlast : s.cfg.spiByteCycles.toNat ≤ s.wcnt.toNat + 1) (hcs : s.csN = false)
include hlast hcs

/-- The last edge of a state that sends a byte under an open transaction (R46, R75). -/
theorem sendByte_last (q : SeqCode) (tx : Byte) (next : SeqCode) :
    sendByte q tx next s = { (eeByte tx (lastEdge q s)).2 with seq := next } := by
  rw [sendByte, multiCycle_last q _ hlast, spiXfer_selected (s := lastEdge q s) tx hcs]

theorem execSFetch_last (hmode : s.ee.mode = .data) :
    execSFetch s = .next
      { (memRead s.ee.ptr (lastEdge Code.sFetch s)).2 with
        ee := { s.ee with ptr := s.ee.ptr + 1 }
        sample := (memRead s.ee.ptr (lastEdge Code.sFetch s)).1
        seq := Code.sDuty } := by
  rw [execSFetch, multiCycle_last Code.sFetch _ hlast, spiXfer_selected (s := lastEdge Code.sFetch s) dummyTx hcs,
    eeByte_data (s := lastEdge Code.sFetch s) dummyTx hmode]
  rfl

end

/-- Settles O31: the byte 0x03 is READ, which the device answers by waiting for an address. -/
theorem armCmdSendsRead : Obligations.ArmCmdSendsRead := by
  intro s hlast hcs hmode
  refine ⟨_, rfl, ?_⟩
  rw [sendByte_last hlast hcs, eeByte_cmd (s := lastEdge Code.armCmd s) Cmd.read hmode]
  rfl

theorem tx2_eq_ofNat (s : State) : s.tx2 = BitVec.ofNat 8 (s.addr.toNat / 65536) := extractLsb'_eq_ofNat s.addr 16

theorem tx1_eq_ofNat (s : State) : s.tx1 = BitVec.ofNat 8 (s.addr.toNat / 256) := extractLsb'_eq_ofNat s.addr 8

theorem tx0_eq_ofNat (s : State) : s.tx0 = BitVec.ofNat 8 s.addr.toNat := by
  rw [State.tx0, extractLsb'_eq_ofNat, Nat.pow_zero, Nat.div_one]

/-- Settles O32: each address byte goes to its place in the buffer, and the third puts the three together. -/
theorem addressBytesReachDevice : Obligations.AddressBytesReachDevice := by
  intro s hlast hcs
  refine ⟨fun hmode => ⟨_, rfl, ?_⟩, fun hmode => ⟨_, rfl, ?_⟩, fun hmode => ⟨_, rfl, ?_, fun hbuf0 hbuf1 => ?_⟩⟩
  · rw [sendByte_last hlast hcs, eeByte_addr0 (s := lastEdge Code.armAddr2 s) s.tx2 hmode, tx2_eq_ofNat]
    rfl
  · rw [sendByte_last hlast hcs, eeByte_addr1 (s := lastEdge Code.armAddr1 s) s.tx1 hmode, tx1_eq_ofNat]
    rfl
  · have hptr : joinAddr s.ee.abuf0 s.ee.abuf1 s.tx0 =
        BitVec.ofNat 24 (s.ee.abuf0.toNat * 65536 + s.ee.abuf1.toNat * 256 + s.addr.toNat % 256) := by
      rw [joinAddr_eq_ofNat, tx0_eq_ofNat, BitVec.toNat_ofNat]
    rw [sendByte_last hlast hcs, eeByte_addr2 (s := lastEdge Code.armAddr0 s) s.tx0 hmode, ← hptr,
      ← tx0_eq_ofNat]
    rfl
  · rw [sendByte_last hlast hcs, eeByte_addr2 (s := lastEdge Code.armAddr0 s) s.tx0 hmode]
    change joinAddr s.ee.abuf0 s.ee.abuf1 s.tx0 = s.addr
    rw [hbuf0, hbuf1, ← tx2_eq_ofNat, ← tx1_eq_ofNat]
    exact joinAddr_bytes s.addr

/-- Settles O36: an idle device reads the array inside it and a free byte beyond it, and the pointer moves on. -/
theorem fetchReadsSample : Obligations.FetchReadsSample := by
  intro s hlast hcs hmode hidle
  have hptr : s.ee.ptr + 1 = BitVec.ofNat 24 (s.ee.ptr.toNat + 1) := by
    rw [BitVec.ofNat_add, BitVec.ofNat_toNat, BitVec.setWidth_eq]
    rfl
  refine ⟨_, execSFetch_last hlast hcs hmode, ?_⟩
  rw [hptr]
  by_cases hin : s.ee.ptr.toNat < s.cfg.eeSize
  · rw [memRead_inside (s := lastEdge Code.sFetch s) (Eeprom.busy_eq_false hidle) hin, if_pos hin, if_pos hin]
    rfl
  · rw [memRead, if_pos (.inr (Nat.le_of_not_lt hin)), if_neg hin, if_neg hin]
    rfl

/-! ## How long D_SETTLE lasts -/

/-- D_SETTLE after `n` of its `cost` edges, on a device that is ready and with `rst = 0` scripted to the end (R75, R92). -/
structure Settling (cost n : Nat) (s : State) : Prop where
  admitted : s.cfg.failing = none
  cost_eq : s.cfg.settleCycles.toNat = cost
  idle : s.ee.program = []
  image : s.imageProgrammed = true
  seq_eq : s.seq = Code.dSettle
  counted : s.wcnt.toNat = n
  scripted : ∀ i, i < cost - n → ∃ x, s.stim[i]? = some x ∧ x.reset = none

section
variable {cost n : Nat} {s : State}

theorem Settling.step_eq (h : Settling cost n s) (hn : n < cost) : step s = exec .dSettle s := by
  obtain ⟨x, hx, hrun⟩ := h.scripted 0 (Nat.sub_pos_of_lt hn)
  have hinputs : s.inputs = x := by rw [State.inputs, List.headD_eq_head?_getD, List.head?_eq_getElem?, hx, Option.getD_some]
  rw [step_running h.admitted (hinputs ▸ hrun) h.idle h.image, h.seq_eq]
  rfl

/-- Before the last edge D_SETTLE counts one more (R75). -/
theorem Settling.step_stays (h : Settling cost n s) (hn : n + 1 < cost) :
    ∃ t, step s = .next t ∧ Settling cost (n + 1) t := by
  have hmore : s.wcnt.toNat < s.cfg.settleCycles.toNat - 1 := by rw [h.counted, h.cost_eq]; omega
  refine ⟨{ clockEdge Code.dSettle s with wcnt := s.wcnt + 1 }, ?_, { h with counted := ?_, scripted := fun i hi => ?_ }⟩
  · rw [h.step_eq (by omega)]
    exact congrArg Host.Outcome.next (if_pos hmore)
  · have hfits := s.cfg.settleCycles.isLt
    exact (BitVec.toNat_add_of_lt (show s.wcnt.toNat + 1 < 2 ^ 32 by omega)).trans (by rw [h.counted]; rfl)
  · obtain ⟨x, hx, hrun⟩ := h.scripted (i + 1) (by omega)
    exact ⟨x, List.getElem?_tail.trans hx, hrun⟩

theorem Settling.step_last (h : Settling cost n s) (hn : n + 1 = cost) :
    step s = .next (returnToIdle (lastEdge Code.dSettle s)) := by
  rw [h.step_eq (by omega), exec_dSettle_last (by rw [h.cost_eq, h.counted]; omega)]

end

/-- `Sys2Proof.core` with its fields written out, as the statement about D_SETTLE runs it. -/
abbrev machine : Host.Core := ⟨State, Fault, Refusal, step, State.reset⟩

theorem run_succ_of_step {s t : State} (hstep : step s = .next t) (k : Nat) : machine.run (k + 1) s = machine.run k t := by
  simp only [Host.Core.run, hstep]

theorem Settling.run_stays {cost n k : Nat} {s : State} (h : Settling cost n s) (hk : n + k < cost) :
    ∃ u, machine.run k s = .next u ∧ Settling cost (n + k) u := by
  induction k generalizing n s with
  | zero => exact ⟨s, rfl, h⟩
  | succ k ih =>
    obtain ⟨t, hstep, ht⟩ := h.step_stays (by omega)
    obtain ⟨u, hrun, hu⟩ := ih ht (by omega)
    exact ⟨u, (run_succ_of_step hstep k).trans hrun, by rwa [Nat.add_right_comm] at hu⟩

theorem Settling.run_to_idle {cost n k : Nat} {s : State} (h : Settling cost n s) (hk : n + (k + 1) = cost) :
    ∃ t, machine.run (k + 1) s = .next t ∧ t.seq = Code.idle ∧ t.wcnt = 0 := by
  induction k generalizing n s with
  | zero => exact ⟨_, (run_succ_of_step (h.step_last hk) 0).trans rfl, rfl, rfl⟩
  | succ k ih =>
    obtain ⟨t, hstep, ht⟩ := h.step_stays (by omega)
    obtain ⟨u, hrun, hu⟩ := ih ht (by omega)
    exact ⟨u, (run_succ_of_step hstep (k + 1)).trans hrun, hu⟩

/-- Settles O60: `wcnt` counts the edges in D_SETTLE from 0, and the last of them goes to IDLE. -/
theorem settleLastsSettleCycles : Obligations.SettleLastsSettleCycles := by
  intro s hadm hidle himage hseq hwcnt hlen hscript
  have hstart : Settling s.cfg.settleCycles.toNat 0 s :=
    { admitted := hadm, cost_eq := rfl, idle := hidle, image := himage, seq_eq := hseq
      counted := congrArg BitVec.toNat hwcnt
      scripted := fun i hi =>
        have hlt : i < s.stim.length := by omega
        ⟨s.stim[i], List.getElem?_eq_getElem hlt, hscript _ (List.mem_take_iff_getElem.2 ⟨i, by omega, rfl⟩)⟩ }
  obtain ⟨-, -, -, -, hsettle, -⟩ := (failing_eq_none_iff_ok s.cfg).1 hadm
  refine ⟨fun k hk => ?_, ?_⟩
  · obtain ⟨u, hrun, hu⟩ := hstart.run_stays (k := k) (by omega)
    exact ⟨u, hrun, hu.seq_eq⟩
  · obtain ⟨k, hk⟩ : ∃ k, s.cfg.settleCycles.toNat = k + 1 := Nat.exists_eq_add_one.2 hsettle
    rw [hk]
    exact hstart.run_to_idle (by omega)

end Sys2Proof.Machine
end

section
/-! PROOFS. The stopped counters (R71, R88): D_STOP's edge, then every state rule with both periods 0. -/

namespace Sys2Proof.Machine

/-! ## The flag beside stopped counters -/

theorem not_tickNow_of_stopped {s : State} (hS : s.perS = 0) : ¬ s.tickNow := fun h => h.1 hS

/-- With the sample counter stopped, and outside S_WAIT, the edge rules hand the flag on and read it nowhere (R66, R67,
R106). -/
theorem clockEdge_ovf_of_stopped {q : SeqCode} {u : State} (hS : u.perS = 0) (hwait : q ≠ Code.sWait) (b : Bool) :
    clockEdge q { u with ovf := b } = { clockEdge q u with ovf := b } := by
  have hflag : nextOvf q { u with ovf := b } = b :=
    nextOvf_of_no_clear (not_tickNow_of_stopped hS) fun hclear => hwait hclear.1
  have hovr (v : State) (hv : v.perS = 0) : ovrEvent q v = false := by
    simp [ovrEvent, ovfEvent_eq_false (not_tickNow_of_stopped hv)]
  simp only [clockEdge, hflag, hovr u hS, hovr { u with ovf := b } hS]
  rfl

theorem eeByte_ovf (tx : Byte) (c : State) (b : Bool) :
    eeByte tx { c with ovf := b } = ((eeByte tx c).1, { (eeByte tx c).2 with ovf := b }) := by
  unfold eeByte
  dsimp only
  split
  case h_6 =>
    unfold memRead
    dsimp only
    split <;> rfl
  all_goals rfl

theorem spiXfer_ovf (tx : Byte) (c : State) (b : Bool) :
    spiXfer tx { c with ovf := b } = ((spiXfer tx c).1, { (spiXfer tx c).2 with ovf := b }) := by
  unfold spiXfer
  dsimp only
  split
  · rfl
  · exact eeByte_ovf tx c b

/-! ## What a state rule adds to the edge rules -/

/-- `g`, run on what the edge rules give, starts no counter, and writing the flag before it is writing the flag after it. -/
structure AfterEdge (g : State → State) : Prop where
  stopped : ∀ c, c.perP = 0 → c.perS = 0 → (g c).perP = 0 ∧ (g c).perS = 0
  blind : ∀ c b, g { c with ovf := b } = { g c with ovf := b }

/-- Writes to `seq` alone. -/
theorem AfterEdge.toSeq {f : State → State} (h : AfterEdge f) (next : SeqCode) :
    AfterEdge fun c => { f c with seq := next } :=
  ⟨h.stopped, fun c b => by rw [h.blind c b]⟩

theorem afterEdge_spiXfer (tx : Byte) : AfterEdge fun c => (spiXfer tx c).2 where
  stopped c hP hS := by
    rw [(spiXfer_onBus tx c).rest]
    exact ⟨hP, hS⟩
  blind c b := congrArg Prod.snd (spiXfer_ovf tx c b)

/-- S_FETCH keeps the answer (R84). -/
theorem afterEdge_spiXfer_sample (tx : Byte) :
    AfterEdge fun c => { (spiXfer tx c).2 with sample := (spiXfer tx c).1 } :=
  ⟨(afterEdge_spiXfer tx).stopped, fun c b => by rw [spiXfer_ovf]⟩

theorem afterEdge_returnToIdle : AfterEdge returnToIdle := ⟨fun _ hP hS => ⟨hP, hS⟩, fun _ _ => rfl⟩

theorem afterEdge_setCs (level : Bool) : AfterEdge (setCs level) where
  stopped c hP hS := by
    rw [setCs_eq]
    exact ⟨hP, hS⟩
  blind c b := by rw [setCs_eq, setCs_eq]

theorem afterEdge_ledRampStep : AfterEdge ledRampStep where
  stopped c hP hS := by
    rw [ledRampStep_eq]
    exact ⟨hP, hS⟩
  blind c b := by
    unfold ledRampStep
    dsimp only
    split
    · split <;> rfl
    · rfl

/-- A state of several cycles stays or completes by what the edge rules leave of `wcnt` (R75). -/
theorem AfterEdge.multiCycle {f : State → State} (h : AfterEdge f) (cost : BitVec 32) :
    AfterEdge fun c =>
      if c.wcnt.toNat < cost.toNat - 1 then { c with wcnt := c.wcnt + 1 } else f { c with wcnt := 0 } where
  stopped c hP hS := by
    split
    · exact ⟨hP, hS⟩
    · exact h.stopped { c with wcnt := 0 } hP hS
  blind c b := by
    dsimp only
    split
    · rfl
    · exact h.blind { c with wcnt := 0 } b

/-- Every state rule but ARM_START's and S_WAIT's is the edge rules followed by such a function, the same for each value of the
flag. -/
theorem exec_seq_afterEdge {q : SeqCode} (hstart : q ≠ Code.armStart) (hwait : q ≠ Code.sWait) (u : State) :
    ∃ g, AfterEdge g ∧ ∀ b,
      exec (decodeSeq q) { u with ovf := b } = .next (g (clockEdge q { u with ovf := b })) := by
  have sends (tx : Byte) (next : SeqCode) := ((afterEdge_spiXfer tx).toSeq next).multiCycle u.cfg.spiByteCycles
  rcases seqCode_cases q with (rfl | rfl | rfl | rfl | rfl | rfl | rfl) | (rfl | rfl | rfl | rfl | rfl) |
    (rfl | rfl | rfl | rfl | rfl) | hill
  · refine ⟨fun c => { c with seq := if u.trigPend then Code.armLoad else Code.idle },
      ⟨fun _ hP hS => ⟨hP, hS⟩, fun _ _ => rfl⟩, fun b => congrArg Host.Outcome.next ?_⟩
    dsimp only
    split <;> rfl
  · exact ⟨fun c => { setCs false c with addr := u.track.start, wcnt := 0, seq := Code.armCmd },
      ⟨(afterEdge_setCs false).stopped, fun c b => by rw [(afterEdge_setCs false).blind c b]⟩, fun _ => rfl⟩
  · exact ⟨_, sends Cmd.read Code.armAddr2, fun _ => rfl⟩
  · exact ⟨_, sends u.tx2 Code.armAddr1, fun _ => rfl⟩
  · exact ⟨_, sends u.tx1 Code.armAddr0, fun _ => rfl⟩
  · exact ⟨_, sends u.tx0 Code.armStart, fun _ => rfl⟩
  · exact absurd rfl hstart
  · exact ⟨fun c => { c with seq := if u.rem = 0 then Code.dStop else Code.sFetch },
      ⟨fun _ hP hS => ⟨hP, hS⟩, fun _ _ => rfl⟩, fun _ => rfl⟩
  · exact ⟨_, ((afterEdge_spiXfer_sample dummyTx).toSeq Code.sDuty).multiCycle u.cfg.spiByteCycles, fun _ => rfl⟩
  · exact ⟨fun c => { c with cmpBuf := u.sample, seq := Code.sLed },
      ⟨fun _ hP hS => ⟨hP, hS⟩, fun _ _ => rfl⟩, fun _ => rfl⟩
  · exact ⟨fun c => { ledOutput (ledRampStep c) with seq := Code.sWait },
      ⟨afterEdge_ledRampStep.stopped, fun c b => by rw [afterEdge_ledRampStep.blind c b]; rfl⟩, fun _ => rfl⟩
  · exact absurd rfl hwait
  · exact ⟨fun c => { counterStop c with seq := Code.dCsoff },
      ⟨fun _ _ _ => ⟨rfl, rfl⟩, fun _ _ => rfl⟩, fun _ => rfl⟩
  · exact ⟨_, (afterEdge_setCs true).toSeq Code.dLedon, fun _ => rfl⟩
  · exact ⟨fun c => { c with ledOut := true, seq := Code.dAdvance },
      ⟨fun _ hP hS => ⟨hP, hS⟩, fun _ _ => rfl⟩, fun _ => rfl⟩
  · exact ⟨fun c => { c with trackIdx := nextTrack u.trackIdx, wcnt := 0, seq := Code.dSettle },
      ⟨fun _ hP hS => ⟨hP, hS⟩, fun _ _ => rfl⟩, fun _ => rfl⟩
  · exact ⟨_, afterEdge_returnToIdle.multiCycle u.cfg.settleCycles, fun _ => rfl⟩
  · exact ⟨returnToIdle, afterEdge_returnToIdle, fun b => exec_illegal q hill { u with ovf := b }⟩

/-! ## Every state rule with both counters stopped -/

/-- Only ARM_START starts a counter (R70, R71). -/
theorem exec_seq_stays_stopped {q : SeqCode} {u v : State} (hexec : exec (decodeSeq q) u = .next v)
    (hstart : q ≠ Code.armStart) (hP : u.perP = 0) (hS : u.perS = 0) : v.perP = 0 ∧ v.perS = 0 := by
  by_cases hwait : q = Code.sWait
  · subst hwait
    obtain rfl := Host.Outcome.next.inj hexec
    split <;> exact ⟨hP, hS⟩
  · obtain ⟨g, hg, heq⟩ := exec_seq_afterEdge hstart hwait u
    obtain rfl := Host.Outcome.next.inj ((heq u.ovf).symm.trans hexec)
    exact hg.stopped (clockEdge q u) hP hS

/-- And only S_WAIT reads the flag then (R87, R106). -/
theorem exec_seq_ovf_of_stopped {q : SeqCode} {u v : State} (hexec : exec (decodeSeq q) u = .next v)
    (hstart : q ≠ Code.armStart) (hwait : q ≠ Code.sWait) (hS : u.perS = 0) (b : Bool) :
    exec (decodeSeq q) { u with ovf := b } = .next { v with ovf := b } := by
  obtain ⟨g, hg, heq⟩ := exec_seq_afterEdge hstart hwait u
  obtain rfl := Host.Outcome.next.inj ((heq u.ovf).symm.trans hexec)
  rw [heq b, clockEdge_ovf_of_stopped hS hwait, hg.blind]

theorem pwmOut_of_stopped {s : State} (hP : s.perP = 0) : s.pwmOut = false :=
  Bool.eq_false_iff.2 fun h => ((pwmOut_iff s).1 h).1 hP

/-- Settles O40: D_STOP's edge runs on the old periods; after it the counters hold under every rule but ARM_START's. -/
theorem stopHaltsCounters : Obligations.StopHaltsCounters := by
  intro s
  refine ⟨_, rfl, rfl, pwmOut_of_stopped rfl, ?_, ?_, nextOvf_of_tickNow Code.dStop,
    fun htick => nextOvf_of_no_clear htick (fun h => absurd h.1 (by decide)), fun q u hstart hP hS => ?_⟩
  · exact ite_not _ _ _
  · exact ite_not _ _ _
  · obtain ⟨v, hexec, k⟩ := exec_seq_kept q u
    obtain ⟨hvP, hvS⟩ := exec_seq_stays_stopped hexec hstart hP hS
    exact ⟨v, hexec, hvP, hvS, (k.cntP_eq hstart).trans (nextCntP_stopped hP),
      (k.cntS_eq hstart).trans (nextCntS_stopped hS), pwmOut_of_stopped hvP,
      fun hwait => ⟨(k.ovf_eq hstart).trans (nextOvf_of_no_clear (not_tickNow_of_stopped hS) fun h => hwait h.1),
        exec_seq_ovf_of_stopped hexec hstart hwait hS⟩⟩

end Sys2Proof.Machine
end

section
/-! PROOFS. The LED ramp over a session (R98, R101): the triangle wave from one value to the next, the ramp's registers
after `n` updates, then the state rules from ARM_START's edge to D_CSOFF. -/

namespace Sys2Proof.Machine

/-! ## One step along the triangle -/

theorem div_mod_succ_of_lt {m n : Nat} (h : m % n + 1 < n) : (m + 1) / n = m / n ∧ (m + 1) % n = m % n + 1 := by
  refine (Nat.div_mod_unique (by omega)).2 ⟨?_, h⟩
  have hm := Nat.div_add_mod m n
  omega

theorem div_mod_succ_of_eq {m n : Nat} (h : m % n + 1 = n) : (m + 1) / n = m / n + 1 ∧ (m + 1) % n = 0 := by
  refine (Nat.div_mod_unique (by omega)).2 ⟨?_, by omega⟩
  have hm := Nat.div_add_mod m n
  rw [Nat.mul_succ]
  omega

/-- The direction of the triangle from `m` on: up in the first half of each period (R101). -/
def triangleDir (steps m : Nat) : LedDir := if m % (2 * steps) < steps then .rising else .falling

section
variable {steps m : Nat}

theorem triangleDir_eq_rising : triangleDir steps m = .rising ↔ m % (2 * steps) < steps := by
  simp [triangleDir]

theorem triangleDir_eq_falling : triangleDir steps m = .falling ↔ steps ≤ m % (2 * steps) := by
  simp [triangleDir]

theorem triangle_of_le (h : m % (2 * steps) ≤ steps) : triangle steps m = m % (2 * steps) := if_pos h

/-- At the top both halves of the definition agree. -/
theorem triangle_of_ge (h : steps ≤ m % (2 * steps)) : triangle steps m = 2 * steps - m % (2 * steps) := by
  unfold triangle
  split <;> omega

theorem triangle_zero (steps : Nat) : triangle steps 0 = 0 := by simp [triangle]

/-- On the way up the triangle gains 1, and turns where it reaches the top (R98, R100). -/
theorem triangle_succ_of_rising (hdir : triangleDir steps m = .rising) :
    triangle steps m < steps ∧ triangle steps (m + 1) = triangle steps m + 1 ∧
      triangleDir steps (m + 1) = if triangle steps m + 1 = steps then .falling else .rising := by
  have hlow := triangleDir_eq_rising.1 hdir
  obtain ⟨-, hnext⟩ := div_mod_succ_of_lt (show m % (2 * steps) + 1 < 2 * steps by omega)
  rw [triangle_of_le hlow.le, triangle_of_le (by omega), hnext]
  refine ⟨hlow, rfl, ?_⟩
  split
  · exact triangleDir_eq_falling.2 (by omega)
  · exact triangleDir_eq_rising.2 (by omega)

/-- On the way down it loses 1, and turns where it reaches 0, at the end of the period (R98, R100). -/
theorem triangle_succ_of_falling (hsteps : 1 ≤ steps) (hdir : triangleDir steps m = .falling) :
    triangle steps (m + 1) + 1 = triangle steps m ∧
      triangleDir steps (m + 1) = if triangle steps m = 1 then .rising else .falling := by
  have hhigh := triangleDir_eq_falling.1 hdir
  have hmod : m % (2 * steps) < 2 * steps := Nat.mod_lt m (by omega)
  rw [triangle_of_ge hhigh]
  by_cases hlast : m % (2 * steps) + 1 = 2 * steps
  · obtain ⟨-, hnext⟩ := div_mod_succ_of_eq hlast
    rw [triangle_of_le (by omega), hnext, if_pos (by omega)]
    exact ⟨by omega, triangleDir_eq_rising.2 (by omega)⟩
  · obtain ⟨-, hnext⟩ := div_mod_succ_of_lt (show m % (2 * steps) + 1 < 2 * steps by omega)
    rw [triangle_of_ge (by omega), hnext, if_neg (by omega)]
    exact ⟨by omega, triangleDir_eq_falling.2 (by omega)⟩

end

/-! ## The ramp after `n` updates -/

/-- The ramp's registers stand where `n` updates from ARM_START's values put them (R98, R101). -/
structure State.RampAt (n : Nat) (s : State) : Prop where
  step : s.ledStep.toNat = triangle s.cfg.steps (n / s.cfg.ledStepTime)
  tick : s.ledTick.toNat = n % s.cfg.ledStepTime
  dir : s.ledDir = triangleDir s.cfg.steps (n / s.cfg.ledStepTime)

section
variable {s : State} {n : Nat}

theorem rampAt_zero (hsteps : s.cfg.okSteps) (hstep : s.ledStep = 0) (hdir : s.ledDir = .rising)
    (htick : s.ledTick = 0) : s.RampAt 0 where
  step := by rw [hstep, Nat.zero_div, triangle_zero]; rfl
  tick := by rw [htick, Nat.zero_mod]; rfl
  dir := by rw [hdir, Nat.zero_div, eq_comm, triangleDir_eq_rising, Nat.zero_mod]; exact hsteps.1

/-- Between two moves of the step only the tick counts. -/
theorem State.RampAt.ledRampStep_counting (h : s.RampAt n) (hlst : s.cfg.okLst)
    (hmore : n % s.cfg.ledStepTime + 1 < s.cfg.ledStepTime) : (ledRampStep s).RampAt (n + 1) := by
  obtain ⟨hdiv, hmod⟩ := div_mod_succ_of_lt hmore
  have hup : (s.ledTick + 1).toNat = s.ledTick.toNat + 1 :=
    BitVec.toNat_add_of_lt (show s.ledTick.toNat + 1 < 2 ^ 16 by rw [h.tick]; omega)
  rw [Machine.ledRampStep_counting (by rw [h.tick]; exact hmore.ne)]
  exact
    { step := hdiv.symm ▸ h.step
      tick := by rw [hmod, ← h.tick]; exact hup
      dir := hdiv.symm ▸ h.dir }

/-- A full tick moves the step one on along the triangle. -/
theorem State.RampAt.ledRampStep_moving (h : s.RampAt n) (hsteps : s.cfg.okSteps)
    (hfull : n % s.cfg.ledStepTime + 1 = s.cfg.ledStepTime) : (ledRampStep s).RampAt (n + 1) := by
  obtain ⟨hdiv, hmod⟩ := div_mod_succ_of_eq hfull
  have htick : s.ledTick.toNat + 1 = s.cfg.ledStepTime := h.tick.symm ▸ hfull
  have hstep := h.step
  cases hdir : s.ledDir with
  | rising =>
    obtain ⟨hlow, hnext, hturn⟩ := triangle_succ_of_rising (h.dir.symm.trans hdir)
    rw [← hstep] at hlow hnext hturn
    have hup : (s.ledStep + 1).toNat = s.ledStep.toNat + 1 :=
      BitVec.toNat_add_of_lt (show s.ledStep.toNat + 1 < 2 ^ 16 by have := hsteps.2; omega)
    rw [ledRampStep_rising htick hdir]
    exact { step := by rw [hdiv, hnext]; exact hup, tick := hmod.symm, dir := by rw [hdiv, hturn] }
  | falling =>
    obtain ⟨hnext, hturn⟩ := triangle_succ_of_falling hsteps.1 (h.dir.symm.trans hdir)
    rw [← hstep] at hnext hturn
    have hdown : (s.ledStep - 1).toNat = s.ledStep.toNat - 1 :=
      BitVec.toNat_sub_of_le (BitVec.le_def.2 (show 1 ≤ s.ledStep.toNat by omega))
    rw [ledRampStep_falling htick hdir]
    exact
      { step := by rw [hdiv]; exact hdown.trans (Nat.eq_sub_of_add_eq hnext).symm
        tick := hmod.symm
        dir := by rw [hdiv, hturn] }

/-- `LedRampStep` is one update of the ramp (R98). -/
theorem State.RampAt.ledRampStep (h : s.RampAt n) (hsteps : s.cfg.okSteps) (hlst : s.cfg.okLst) :
    (ledRampStep s).RampAt (n + 1) := by
  rcases Nat.lt_or_eq_of_le (Nat.mod_lt n hlst.1 : n % s.cfg.ledStepTime + 1 ≤ s.cfg.ledStepTime) with hmore | hfull
  · exact h.ledRampStep_counting hlst hmore
  · exact h.ledRampStep_moving hsteps hfull

theorem ledRampTimes_cfg (n : Nat) (s : State) : (ledRampTimes n s).cfg = s.cfg := by
  induction n with
  | zero => rfl
  | succ n ih => exact (ledRampStep_cfg _).trans ih

theorem State.RampAt.ledRampTimes (h : s.RampAt 0) (hsteps : s.cfg.okSteps) (hlst : s.cfg.okLst) (n : Nat) :
    (ledRampTimes n s).RampAt n := by
  induction n with
  | zero => exact h
  | succ n ih =>
    rw [← ledRampTimes_cfg n s] at hsteps hlst
    exact ih.ledRampStep hsteps hlst

end

/-! ## The session -/

/-- The registers that `State.OnRamp` reads; every other field at its value of `State.reset`. -/
def State.rampView (s : State) : State :=
  { State.reset with
    cfg := s.cfg, seq := s.seq, trackIdx := s.trackIdx, rem := s.rem, ledStep := s.ledStep, ledDir := s.ledDir
    ledTick := s.ledTick }

theorem onRamp_rampView_iff (s : State) : s.rampView.OnRamp ↔ s.OnRamp := ⟨fun h => { h with }, fun h => { h with }⟩

/-- Writes to registers that the ramp's invariant does not read keep it. -/
theorem State.OnRamp.congr {s t : State} (h : s.OnRamp) (hview : t.rampView = s.rampView) : t.OnRamp :=
  (onRamp_rampView_iff t).1 (hview ▸ (onRamp_rampView_iff s).2 h)

/-- The codes from S_CHECK to D_CSOFF, where the ramp's registers belong to a session (R82, R89). -/
abbrev inSession (q : SeqCode) : Prop := 0x07 ≤ q.toNat ∧ q.toNat ≤ 0x0D

section
variable {s : State} {p q : SeqCode} {n : Nat}

theorem onRamp_of_outside (hs : s.seq = q) (hq : ¬ inSession q) : s.OnRamp := by
  subst hs
  exact ⟨Not.elim hq, Not.elim hq, Not.elim hq, Not.elim hq⟩

theorem State.RampAt.onRamp (h : s.RampAt n) (hn : s.ledUpdates = n) (hcount : s.rem.toNat ≤ s.track.length.toNat) :
    s.OnRamp := by
  subst hn
  exact ⟨fun _ => hcount, fun _ => h.step, fun _ => h.tick, fun _ => h.dir⟩

theorem State.OnRamp.rampAt (h : s.OnRamp) (hs : s.seq = q) (hq : inSession q) : s.RampAt s.ledUpdates := by
  subst hs
  exact ⟨h.step hq, h.tick hq, h.dir hq⟩

theorem State.OnRamp.rem_le (h : s.OnRamp) (hs : s.seq = q) (hq : inSession q) : s.rem.toNat ≤ s.track.length.toNat := by
  subst hs
  exact h.count hq

theorem ledUpdates_of_sWait (hs : s.seq = Code.sWait) : s.ledUpdates = s.position + 1 := if_pos hs

theorem ledUpdates_of_ne_sWait (hs : s.seq = q) (hq : q ≠ Code.sWait) : s.ledUpdates = s.position :=
  if_neg (hs.symm ▸ hq)

/-- A move of the sequencer alone, but for S_LED's to S_WAIT and S_WAIT's to S_CHECK. -/
theorem State.OnRamp.goto (h : s.OnRamp) (hs : s.seq = p) (hp : inSession p) (hpw : p ≠ Code.sWait)
    (hqw : q ≠ Code.sWait) : State.OnRamp { s with seq := q } := by
  have hramp := h.rampAt hs hp
  rw [ledUpdates_of_ne_sWait hs hpw] at hramp
  exact State.RampAt.onRamp { hramp with } (ledUpdates_of_ne_sWait rfl hqw) (h.rem_le hs hp)

/-- Staying in a state of several cycles writes no register of the ramp; what is left is its completion (R75). -/
theorem State.OnRamp.multiCycle (h : s.OnRamp) {cost : BitVec 32} {f : State → State} (hs : s.seq = q)
    (hf : ∀ u : State, u.OnRamp → u.seq = q → (f u).OnRamp) : (multiCycle cost q f s).OnRamp := by
  rcases multiCycle_cases cost q f s with ⟨-, hstay⟩ | ⟨-, hdone⟩
  · rw [hstay]
    exact h.congr rfl
  · rw [hdone]
    exact hf _ (h.congr rfl) hs

theorem State.OnRamp.sendByte (h : s.OnRamp) {next : SeqCode} (tx : Byte) (hs : s.seq = q) (hnext : ¬ inSession next) :
    (sendByte q tx next s).OnRamp :=
  h.multiCycle hs fun _ _ _ => onRamp_of_outside rfl hnext

/-! ## The state rules -/

/-- ARM_START starts the ramp, with no sample consumed (R82). -/
theorem onRamp_execArmStart (hinv : s.Inv) : ∃ t, execArmStart s = .next t ∧ t.OnRamp := by
  obtain ⟨hsteps, -⟩ := (failing_eq_none_iff_ok s.cfg).1 hinv.admitted
  exact ⟨_, rfl, State.RampAt.onRamp (rampAt_zero hsteps rfl rfl rfl)
    ((ledUpdates_of_ne_sWait (q := Code.sCheck) rfl (by decide)).trans (Nat.sub_self _)) (Nat.le_refl _)⟩

theorem State.OnRamp.execSCheck (h : s.OnRamp) (hs : s.seq = Code.sCheck) : ∃ t, execSCheck s = .next t ∧ t.OnRamp := by
  refine ⟨_, rfl, ?_⟩
  split
  · exact (h.goto (q := Code.dStop) hs (by decide) (by decide) (by decide)).congr rfl
  · exact (h.goto (q := Code.sFetch) hs (by decide) (by decide) (by decide)).congr rfl

theorem State.OnRamp.execSFetch (h : s.OnRamp) (hs : s.seq = Code.sFetch) : ∃ t, execSFetch s = .next t ∧ t.OnRamp := by
  refine ⟨_, rfl, h.multiCycle hs fun u hu hseq => ?_⟩
  refine (hu.goto (q := Code.sDuty) hseq (by decide) (by decide) (by decide)).congr ?_
  dsimp only
  rw [(spiXfer_onBus dummyTx u).rest]
  rfl

theorem State.OnRamp.execSDuty (h : s.OnRamp) (hs : s.seq = Code.sDuty) : ∃ t, execSDuty s = .next t ∧ t.OnRamp :=
  ⟨_, rfl, (h.goto (q := Code.sLed) hs (by decide) (by decide) (by decide)).congr rfl⟩

/-- S_LED updates the ramp for the sample in hand, which S_WAIT counts too (R86). -/
theorem State.OnRamp.execSLed (h : s.OnRamp) (hinv : s.Inv) (hs : s.seq = Code.sLed) :
    ∃ t, execSLed s = .next t ∧ t.OnRamp := by
  obtain ⟨hsteps, hlst, -⟩ := (failing_eq_none_iff_ok s.cfg).1 hinv.admitted
  have hramp := h.rampAt hs (by decide)
  rw [ledUpdates_of_ne_sWait hs (by decide)] at hramp
  have hclock : (clockEdge Code.sLed s).RampAt s.position := { hramp with }
  have hnext := hclock.ledRampStep hsteps hlst
  have hrem := h.rem_le hs (by decide)
  refine ⟨_, rfl, ?_⟩
  rw [ledRampStep_eq] at hnext ⊢
  exact State.RampAt.onRamp { hnext with } (ledUpdates_of_sWait rfl) hrem

/-- S_WAIT counts off the sample that it counted as in hand (R87). -/
theorem State.OnRamp.execSWait (h : s.OnRamp) (hinv : s.Inv) (hs : s.seq = Code.sWait) :
    ∃ t, execSWait s = .next t ∧ t.OnRamp := by
  refine ⟨_, rfl, ?_⟩
  split
  · have hramp := h.rampAt hs (by decide)
    rw [ledUpdates_of_sWait hs] at hramp
    have hcount := h.rem_le hs (by decide)
    have hpos : 0 < s.rem.toNat :=
      Nat.pos_of_ne_zero fun hz => hinv.rem_ne_zero hs (by decide) (BitVec.eq_of_toNat_eq hz)
    have hdown : (s.rem - 1).toNat = s.rem.toNat - 1 := BitVec.toNat_sub_of_le (BitVec.le_def.2 hpos)
    have hmove : s.track.length.toNat - (s.rem - 1).toNat = s.position + 1 := by
      rw [hdown, State.position]
      omega
    exact State.RampAt.onRamp { hramp with } ((ledUpdates_of_ne_sWait (q := Code.sCheck) rfl (by decide)).trans hmove)
      (hdown.trans_le ((Nat.sub_le _ _).trans hcount))
  · exact h.congr (by rw [State.rampView, State.rampView, hs]; rfl)

theorem State.OnRamp.execDStop (h : s.OnRamp) (hs : s.seq = Code.dStop) : ∃ t, execDStop s = .next t ∧ t.OnRamp :=
  ⟨_, rfl, (h.goto (q := Code.dCsoff) hs (by decide) (by decide) (by decide)).congr rfl⟩

end

/-- The state rule of `seq` keeps the ramp on the triangle; an illegal code is excluded by I1. -/
theorem State.OnRamp.exec_seq {s : State} (h : s.OnRamp) (hinv : s.Inv) :
    ∃ t, exec (decodeSeq s.seq) s = .next t ∧ t.OnRamp := by
  rcases seqCode_cases s.seq with (hs | hs | hs | hs | hs | hs | hs) | (hs | hs | hs | hs | hs) |
    (hs | hs | hs | hs | hs) | hs
  case inr.inr.inr => exact absurd (BitVec.le_def.1 hs) (Nat.not_le_of_lt (Nat.lt_succ_of_le hinv.seqLegal))
  all_goals rw [hs]
  · refine ⟨_, rfl, ?_⟩
    split
    · exact onRamp_of_outside (q := Code.armLoad) rfl (by decide)
    · exact onRamp_of_outside (q := Code.idle) rfl (by decide)
  · exact ⟨_, rfl, onRamp_of_outside (q := Code.armCmd) rfl (by decide)⟩
  · exact ⟨_, rfl, h.sendByte _ hs (by decide)⟩
  · exact ⟨_, rfl, h.sendByte _ hs (by decide)⟩
  · exact ⟨_, rfl, h.sendByte _ hs (by decide)⟩
  · exact ⟨_, rfl, h.sendByte _ hs (by decide)⟩
  · exact onRamp_execArmStart hinv
  · exact h.execSCheck hs
  · exact h.execSFetch hs
  · exact h.execSDuty hs
  · exact h.execSLed hinv hs
  · exact h.execSWait hinv hs
  · exact h.execDStop hs
  · exact ⟨_, rfl, onRamp_of_outside (q := Code.dLedon) rfl (by decide)⟩
  · exact ⟨_, rfl, onRamp_of_outside (q := Code.dAdvance) rfl (by decide)⟩
  · exact ⟨_, rfl, onRamp_of_outside (q := Code.dSettle) rfl (by decide)⟩
  · exact ⟨_, rfl, h.multiCycle hs fun _ _ _ => onRamp_of_outside (q := Code.idle) rfl (by decide)⟩

/-- An edge with `rst = 1` ends in IDLE, where no session is under way (R33). -/
theorem ResetShape.onRamp {s t : State} (h : ResetShape s t) : t.OnRamp :=
  onRamp_of_idle (by rw [h.eq_resetFrame]; rfl)

/-- Settles O58: by induction each update moves the ramp one on along the triangle; with `rst = 0` the state rule of `seq`
keeps it there, with `rst = 1` the block is in IDLE. -/
theorem ledStepIsTriangle : Obligations.LedStepIsTriangle := by
  refine ⟨fun s j hsteps hsteps' hlst hlst' hstep hdir htick => ?_, fun s t hinv hramp hrun => ?_⟩
  · have hzero : s.RampAt 0 := rampAt_zero ⟨hsteps, hsteps'⟩ hstep hdir htick
    have hj := (hzero.ledRampTimes ⟨hsteps, hsteps'⟩ ⟨hlst, hlst'⟩ j).step
    rwa [ledRampTimes_cfg] at hj
  · rcases step_shape hrun with ⟨-, hexec, -⟩ | ⟨-, hreset⟩
    · obtain ⟨u, hu, hkeep⟩ := hramp.exec_seq hinv
      obtain rfl : u = t := Host.Outcome.next.inj (hu.symm.trans hexec)
      exact hkeep
    · exact hreset.onRamp

end Sys2Proof.Machine
end

section
/-! PROOFS. The LED over `STEPS` consecutive values of `rem` (R99, R102). -/

namespace Sys2Proof.Machine

/-- Of `n` numbers in a row, `k` have a residue modulo `n` below `k`: every residue occurs once. -/
theorem length_filter_mod_lt {n k : Nat} (hk : k ≤ n) (r : Nat) :
    ((List.range n).filter fun i => decide ((r + i) % n < k)).length = k := by
  have hshift : Nat.count (fun i => (r + i) % n < k) n = Nat.count (fun i => i % n < k) n := by
    have hsplit := Nat.count_add (fun i => i % n < k) r n
    rw [Nat.add_comm r n, Nat.count_add] at hsplit
    simp only [Nat.add_mod_left] at hsplit
    omega
  have hresidue : ∀ i ∈ List.range n, decide (i % n < k) = decide (i < k) := fun i hi => by
    rw [Nat.mod_eq_of_lt (List.mem_range.1 hi)]
  rw [Nat.count, Nat.count, List.countP_eq_length_filter, List.countP_eq_length_filter,
    List.filter_congr hresidue] at hshift
  exact hshift.trans (length_filter_lt_range hk)

/-- Settles O59: the window holds every residue modulo `STEPS` once. -/
theorem ledOnForStepSamples : Obligations.LedOnForStepSamples := by
  intro s r hsteps hstep hfit
  have hled : ∀ k ∈ List.range s.cfg.steps,
      (ledOutput { s with rem := BitVec.ofNat 24 (r + k) }).ledOut =
        decide ((r + k) % s.cfg.steps < s.ledStep.toNat) := by
    intro k hk
    have hrem : (BitVec.ofNat 24 (r + k)).toNat = r + k :=
      (BitVec.toNat_ofNat _ _).trans (Nat.mod_eq_of_lt (by have := List.mem_range.1 hk; omega))
    rw [ledOutput_ledOut, hrem]
  rw [List.filter_congr hled]
  exact length_filter_mod_lt hstep r

end Sys2Proof.Machine
end

section
/-! PROOFS. The diagnostic bits (R105 to R107) and the button's edge detector (R108 to R110): when each bit is written, and that
no state rule reads one, but IDLE the pending trigger. -/

namespace Sys2Proof.Machine

/-! ## When the bits are written -/

section
variable (q : SeqCode) (s : State)

theorem lateEvent_iff : lateEvent q s = true ↔ s.tickNow ∧ (q = Code.sFetch ∨ (q = Code.sCheck ∧ s.rem ≠ 0)) := by
  simp only [lateEvent, Bool.and_eq_true, Bool.or_eq_true, decide_eq_true_eq, ovfEvent_iff]

/-- The states of STREAMING before S_WAIT. -/
theorem inStreaming_and_ne_sWait_iff :
    inStreaming q ∧ q ≠ Code.sWait ↔ q = Code.sCheck ∨ q = Code.sFetch ∨ q = Code.sDuty ∨ q = Code.sLed := by
  revert q
  decide

/-- On a set flag, an edge that does not clear it is one outside S_WAIT (R67, R106). -/
theorem ovrEvent_iff :
    ovrEvent q s = true ↔
      s.tickNow ∧ s.ovf = true ∧ (q = Code.sCheck ∨ q = Code.sFetch ∨ q = Code.sDuty ∨ q = Code.sLed) := by
  have hclear (hovf : s.ovf = true) : (!ovfClear q s) = true ↔ q ≠ Code.sWait := by simp [ovfClear, hovf]
  rw [← inStreaming_and_ne_sWait_iff]
  simp only [ovrEvent, Bool.and_eq_true, decide_eq_true_eq, ovfEvent_iff]
  constructor
  · rintro ⟨⟨⟨htick, hovf⟩, hkeeps⟩, hseq⟩
    exact ⟨htick, hovf, hseq, (hclear hovf).1 hkeeps⟩
  · rintro ⟨htick, hovf, hseq, hne⟩
    exact ⟨⟨⟨htick, hovf⟩, (hclear hovf).2 hne⟩, hseq⟩

theorem nextTrigPend_iff : nextTrigPend s = true ↔ s.trigQ = true ∧ s.inputs.btn = false := by
  rw [nextTrigPend, Bool.and_eq_true, Bool.not_eq_true', State.btn]

end

/-- Settles O22: the bit holds what it held or the edge's event. -/
theorem lateBitRaised : Obligations.LateBitRaised := by
  intro q s
  obtain ⟨t, hexec, k⟩ := exec_seq_kept q s
  exact ⟨t, hexec, by rw [k.late, Bool.or_eq_true, lateEvent_iff]⟩

/-- Settles O23: the bit holds what it held or the edge's event. -/
theorem ovrBitRaised : Obligations.OvrBitRaised := by
  intro q s
  obtain ⟨t, hexec, k⟩ := exec_seq_kept q s
  exact ⟨t, hexec, by rw [k.ovr, Bool.or_eq_true, ovrEvent_iff]⟩

/-- Settles O25: both registers come from the edge rules under every code. -/
theorem triggerDetector : Obligations.TriggerDetector := by
  intro q s
  obtain ⟨t, hexec, k⟩ := exec_seq_kept q s
  exact ⟨t, hexec, by rw [k.trigPend, nextTrigPend_iff], k.trigQ⟩

/-! ## What reads them -/

/-- Settles O26: the edge rules and the reset edge write `trig_pend` without reading it, and every instruction but IDLE reads
the state they leave, and of the state before it other registers only. -/
theorem edgeOutsideIdleDiscarded : Obligations.EdgeOutsideIdleDiscarded := by
  intro i s pending hidle
  cases i with
  | idle => exact absurd rfl hidle
  | _ => rfl

/-- `s` with other diagnostic bits and another script of inputs. -/
def State.withBits (s : State) (late ovr : Bool) (stim : List Inputs) : State :=
  { s with faultLate := late, faultOvr := ovr, stim := stim }

section
variable (s : State) (late ovr : Bool) (stim : List Inputs)

@[simp] theorem State.withBits_wcnt : (s.withBits late ovr stim).wcnt = s.wcnt := rfl
@[simp] theorem State.withBits_ovf : (s.withBits late ovr stim).ovf = s.ovf := rfl
@[simp] theorem State.withBits_trigPend : (s.withBits late ovr stim).trigPend = s.trigPend := rfl

end

/-- `t` with the detector, the diagnostic bits and the script as the edge rules of code `q` leave them from `s`. -/
def edgeBits (q : SeqCode) (s t : State) : State :=
  { t with
    trigQ := s.btn
    trigPend := nextTrigPend s
    faultLate := s.faultLate || lateEvent q s
    faultOvr := s.faultOvr || ovrEvent q s
    stim := s.stim.tail }

/-- `f` hands the registers of `edgeBits` on and reads none of them. -/
def BlindToBits (f : State → State) : Prop := ∀ q s c, f (edgeBits q s c) = edgeBits q s (f c)

/-- The device sees none of these registers. -/
theorem eeByte_edgeBits (tx : Byte) (q : SeqCode) (s c : State) :
    eeByte tx (edgeBits q s c) = ((eeByte tx c).1, edgeBits q s (eeByte tx c).2) := by
  unfold eeByte edgeBits
  dsimp only
  split
  case h_6 =>
    unfold memRead
    dsimp only
    split <;> rfl
  all_goals rfl

theorem spiXfer_edgeBits (tx : Byte) (q : SeqCode) (s c : State) :
    spiXfer tx (edgeBits q s c) = ((spiXfer tx c).1, edgeBits q s (spiXfer tx c).2) := by
  have hcs : (edgeBits q s c).csN = c.csN := rfl
  unfold spiXfer
  rw [hcs]
  split
  · rfl
  · exact eeByte_edgeBits tx q s c

theorem ledRampStep_blindToBits : BlindToBits ledRampStep := by
  intro q s c
  unfold ledRampStep edgeBits
  dsimp only
  split
  · split <;> rfl
  · rfl

section
variable {q : SeqCode} {s t : State} (late ovr : Bool) (stim : List Inputs)

/-- A state of several cycles stays or completes by `wcnt` alone (R75). -/
theorem multiCycle_withBits {f : State → State} (hf : BlindToBits f) (cost : BitVec 32) :
    multiCycle cost q f (s.withBits late ovr stim) =
      edgeBits q (s.withBits late ovr stim) (multiCycle cost q f s) := by
  unfold multiCycle
  rw [State.withBits_wcnt]
  split
  · rfl
  · exact hf q (s.withBits late ovr stim) { clockEdge q s with wcnt := 0 }

theorem sendByte_withBits (tx : Byte) (next : SeqCode) :
    sendByte q tx next (s.withBits late ovr stim) =
      edgeBits q (s.withBits late ovr stim) (sendByte q tx next s) :=
  multiCycle_withBits late ovr stim (fun p v c => by rw [spiXfer_edgeBits]; rfl) s.cfg.spiByteCycles

/-- With other diagnostic bits and another script a state rule writes what it wrote, but for the registers that the edge rules
take from them (R107, R108). -/
theorem exec_seq_withBits (hexec : exec (decodeSeq q) s = .next t) :
    exec (decodeSeq q) (s.withBits late ovr stim) = .next (edgeBits q (s.withBits late ovr stim) t) := by
  rcases seqCode_cases q with (rfl | rfl | rfl | rfl | rfl | rfl | rfl) | (rfl | rfl | rfl | rfl | rfl) |
    (rfl | rfl | rfl | rfl | rfl) | hill
  case inr.inr.inr =>
    rw [exec_illegal q hill] at hexec ⊢
    obtain rfl := Host.Outcome.next.inj hexec
    rfl
  all_goals
    obtain rfl := Host.Outcome.next.inj hexec
    refine congrArg Host.Outcome.next ?_
  · rw [State.withBits_trigPend]
    split <;> rfl
  · rw [setCs_eq, setCs_eq]
    rfl
  · exact sendByte_withBits late ovr stim Cmd.read Code.armAddr2
  · exact sendByte_withBits late ovr stim s.tx2 Code.armAddr1
  · exact sendByte_withBits late ovr stim s.tx1 Code.armAddr0
  · exact sendByte_withBits late ovr stim s.tx0 Code.armStart
  · rfl
  · rfl
  · exact multiCycle_withBits late ovr stim (fun p v c => by rw [spiXfer_edgeBits]; rfl) s.cfg.spiByteCycles
  · rfl
  · have hramp := ledRampStep_blindToBits Code.sLed (s.withBits late ovr stim) (clockEdge Code.sLed s)
    exact congrArg (fun c => { ledOutput c with seq := Code.sWait }) hramp
  · rw [State.withBits_ovf]
    split <;> rfl
  · rfl
  · rw [setCs_eq, setCs_eq]
    rfl
  · rfl
  · rfl
  · exact multiCycle_withBits late ovr stim (fun _ _ _ => rfl) s.cfg.settleCycles

end

/-- Settles O24: a step writes the bits by the edge rules or resets them, and a state rule reads none of them. -/
theorem diagnosticBitsStickyAndUnread : Obligations.DiagnosticBitsStickyAndUnread := by
  refine ⟨fun s t hstep => ?_, fun q s late ovr => ?_⟩
  · rcases step_shape hstep with ⟨hrun, -, k⟩ | ⟨hrst, hreset⟩
    · exact ⟨fun _ => ⟨k.late, k.ovr⟩, fun hrst => absurd hrun hrst⟩
    · exact ⟨fun hrun => absurd hrun hrst, fun _ => ⟨hreset.onTime.late, hreset.onTime.ovr⟩⟩
  · obtain ⟨t, hexec⟩ := exec_completes (decodeSeq q) s
    have hsame : t = edgeBits q s t :=
      Host.Outcome.next.inj (hexec.symm.trans (exec_seq_withBits s.faultLate s.faultOvr s.stim hexec))
    refine ⟨t, _, hexec, exec_seq_withBits late ovr s.stim hexec, ?_⟩
    rw [hsame]
    rfl

/-- Settles O27: from either level the state rule writes the same, and the detector takes the level. -/
theorem buttonReachesDetectorOnly : Obligations.ButtonReachesDetectorOnly := by
  intro q s
  obtain ⟨t, hexec⟩ := exec_completes (decodeSeq q) s
  have hlevel (level : Bool) := exec_seq_withBits s.faultLate s.faultOvr ({ btn := level } :: s.stim) hexec
  have hpend : (s.trigQ && !false) = s.trigQ := Bool.and_true s.trigQ
  refine ⟨_, _, hlevel true, hlevel false, ?_⟩
  rw [← hpend]
  rfl

end Sys2Proof.Machine
end


section
/-! PROOFS. What a step needs and keeps around reset: the programmer's commands (R125), the refusals of an EEPROM that is not
ready (K19, K8), the mark of a programmed image (R124), and the image while the block runs (R126, R127). -/

namespace Sys2Proof.Machine

/-! ## The programmer's commands -/

/-- Settles O6: such a step fetches what the frame decodes to. -/
theorem stepRunsProgrammerCommand : Obligations.StepRunsProgrammerCommand := by
  intro s held bytes i hadm hr hframe hdecode
  have hfetch : fetch s = .instr i := by
    simp [fetch, hadm, hr, hframe, show decodeFrame bytes = .ok i from hdecode]
  rw [step, hfetch]

/-! ## The release on an EEPROM that is not ready -/

/-- With `rst = 0` an admitted configuration leaves the choice to `fetchRunning`. -/
theorem fetch_released {s : State} (hadm : s.cfg.failing = none) (hrun : s.inputs.reset = none) :
    fetch s = fetchRunning s := by
  simp [fetch, hadm, hrun]

theorem step_released_busy {s : State} (hadm : s.cfg.failing = none) (hrun : s.inputs.reset = none)
    (hcycle : s.ee.program ≠ []) : step s = .refused .deviceBusy := by
  rw [step_refused_iff, fetch_released hadm hrun]
  exact if_pos ((Eeprom.busy_iff s.ee).2 hcycle)

theorem step_released_unprogrammed {s : State} (hadm : s.cfg.failing = none) (hrun : s.inputs.reset = none)
    (hidle : s.ee.program = []) (himage : s.imageProgrammed = false) : step s = .refused .unprogrammedImage := by
  rw [step_refused_iff, fetch_released hadm hrun]
  simp [fetchRunning, Eeprom.busy_eq_false hidle, himage]

theorem ResetShape.imageProgrammed {s t : State} (h : ResetShape s t) :
    t.imageProgrammed = (s.imageProgrammed || s.held.imageDone) := by
  rw [h.1]
  rfl

/-- The bootstrap finishes only at an edge with `rst = 1`. -/
theorem State.held_imageDone_iff (s : State) :
    s.held.imageDone = true ↔ ∃ held, s.inputs.reset = some held ∧ held.imageDone = true := by
  rw [State.held]
  cases s.inputs.reset <;> simp

/-- Settles O8: `fetchRunning` asks for the device first and for the image then; no state rule writes the mark, and the reset
edge adds the bootstrap's end to it. -/
theorem unreadyEepromRefusedAtRelease : Obligations.UnreadyEepromRefusedAtRelease := by
  refine ⟨fun _ => step_released_busy, fun _ => step_released_unprogrammed, fun s t hstep => ?_⟩
  rcases step_shape hstep with ⟨hrun, hexec, -⟩ | ⟨-, hreset⟩
  · simp [exec_seq_imageProgrammed hexec, hrun]
  · rw [hreset.imageProgrammed, Bool.or_eq_true, State.held_imageDone_iff]

/-! ## The image of the running block -/

/-- Settles O15: a state rule keeps the configuration and the array, an edge with `rst = 1` the configuration. -/
theorem imageStableWhileRunning : Obligations.ImageStableWhileRunning := by
  intro s t hstep
  rcases step_shape hstep with ⟨-, -, hkept⟩ | ⟨hrst, hreset⟩
  · exact ⟨hkept.cfg, fun _ a => by rw [hkept.mem]⟩
  · exact ⟨hreset.cfg, fun hrun => absurd hrun hrst⟩

end Sys2Proof.Machine
end
